-- ==== Sys2Proof/Word.lean ====
section
/-! DEFINITION. The register word of the LFSR sequence engine (00_scope.md R6). -/

namespace Sys2Proof

/-- A host-visible register is 32 bits wide (00_scope.md R6, XLEN). -/
abbrev Word := BitVec 32

/-- One bit of a sequence as a word whose bit 0 it is (zext_32 of 00_scope.md section 5). -/
abbrev Word.ofBit (b : Bool) : Word := if b then 1#32 else 0#32

end Sys2Proof
end

