-- ==== Sys2Proof/Config.lean ====
section
/-! DEFINITION. What an implementation fixes (the parameters DMAX and LMAX) and the free values. -/

namespace Sys2Proof

/-- The two parameters of an implementation (00_scope.md R4, R5). They are constants of one engine: every step hands
them on unchanged (log 5). -/
structure Params where
  /-- DMAX, the largest register degree (R4). -/
  dmax : Nat
  /-- LMAX, the capacity in bits of each of the five memories (R5). -/
  lmax : Nat
deriving DecidableEq, Repr

/-- The defaults of 00_scope.md R4 and R5. -/
abbrev Params.default : Params := { dmax := 32, lmax := 65536 }

/-- The values R4 and R5 admit: 2 ≤ DMAX ≤ 32 and 1 ≤ LMAX ≤ 2^31 - 1 = 2147483647. -/
abbrev Params.Legal (p : Params) : Prop :=
  (2 ≤ p.dmax ∧ p.dmax ≤ 32) ∧ (1 ≤ p.lmax ∧ p.lmax ≤ 2147483647)

/-- FREE VALUE (log 3). The bit that element `addr` of the memory with space id `space` holds after reset number
`epoch` until something writes it: "each element holds an arbitrary bit, the same on every read until written"
(10_state.md R31, 93_implementation_defined.md U1). It has no body, so nothing can be proved of its value. -/
opaque Config.resetBit (epoch space addr : Nat) : Bool

end Sys2Proof
end

