-- ==== Sys2Proof/Syntax.lean ====
section
/-! DEFINITION. The commands, one constructor per row of spec/opcode_table.json (30_encoding.md R62). -/

namespace Sys2Proof

/-- A command. `ch` is the raw CH field, bits [5:4] of the command word; `WellFormed` says which values are legal
(30_encoding.md R63). -/
inductive Instr where
  /-- `GEN k`: generate GLEN bits from channel k = CH into SEQ[k] (R83). -/
  | gen (ch : BitVec 2)
  /-- `COMB`: combine SEQ[1], SEQ[2], SEQ[3] into OUT (R102). -/
  | comb
  /-- `CORR k`: correlation search on channel k = CH (R117). -/
  | corr (ch : BitVec 2)
  /-- `CORR2`: correlation searches on channels 1 and 2 together (R119). -/
  | corr2
  /-- `FSEL`: consistency search for channel 3 (R145). -/
  | fsel
  /-- `RECOVER`: the full pipeline (R161). -/
  | recover
deriving DecidableEq, Repr

end Sys2Proof
end

