-- ==== Sys2Proof/WellFormed.lean ====
section
/-! DEFINITION. Which commands have a legal command word (30_encoding.md R63, R64). -/

namespace Sys2Proof

/-- "For `GEN` and `CORR`, `k` must be 1, 2 or 3 and names the channel" (30_encoding.md R63). -/
abbrev ChannelField.Legal (ch : BitVec 2) : Prop := ch ≠ 0#2

/-- The checks on a command's operand. -/
def Instr.wellFormed : Instr → Bool
  | .gen ch => decide (ChannelField.Legal ch)
  | .comb => true
  | .corr ch => decide (ChannelField.Legal ch)
  | .corr2 => true
  | .fsel => true
  | .recover => true

/-- A command that one of the ten legal words of R62 stands for. -/
abbrev Instr.WellFormed (i : Instr) : Prop := i.wellFormed = true

end Sys2Proof
end

