-- ==== Sys2Proof/Decode.lean ====
section
/-! DEFINITION. The decoder of command words, and the encoder (30_encoding.md R60, R62 to R64).
There are no bytes and no byte order (20_memory.md R43): the decoder reads the 32-bit word written to CMD. -/

namespace Sys2Proof

/-- Why a command word is illegal (30_encoding.md R64). The engine reports all three as ILLEGAL_COMMAND. -/
inductive DecodeError where
  /-- "any one bit in [31:6]". -/
  | upperBitsNotZero
  /-- "`OP = 0x0`" or "`OP` in 0x7 to 0xF". -/
  | unknownOperation
  /-- "`CH = 0` with `GEN` or `CORR`, `CH != 0` with `COMB`, `CORR2`, `FSEL` or `RECOVER`". -/
  | badChannelField
deriving DecidableEq, Repr

/-- OP, bits [3:0] (R60). -/
def opField (w : Word) : BitVec 4 := w.extractLsb' 0 4

/-- CH, bits [5:4] (R60). -/
def chField (w : Word) : BitVec 2 := w.extractLsb' 4 2

/-- ZERO, bits [31:6] (R60). -/
def upperField (w : Word) : BitVec 26 := w.extractLsb' 6 26

/-- A command whose channels are fixed: CH must be 0 (R63). -/
def decodeFixed (ch : BitVec 2) (i : Instr) : Except DecodeError Instr :=
  if ch = 0#2 then .ok i else .error .badChannelField

/-- A command that names a channel: CH must be 1, 2 or 3 (R63). -/
def decodeChannel (ch : BitVec 2) (i : BitVec 2 → Instr) : Except DecodeError Instr :=
  if ChannelField.Legal ch then .ok (i ch) else .error .badChannelField

/-- "A decoder: check `word[31:6] = 0`, look up `word[3:0]`, check `word[5:4]` against the CH column" (R62). -/
def decode (w : Word) : Except DecodeError Instr :=
  if upperField w ≠ 0#26 then .error .upperBitsNotZero
  else if opField w = 1#4 then decodeChannel (chField w) .gen
  else if opField w = 2#4 then decodeFixed (chField w) .comb
  else if opField w = 3#4 then decodeChannel (chField w) .corr
  else if opField w = 4#4 then decodeFixed (chField w) .corr2
  else if opField w = 5#4 then decodeFixed (chField w) .fsel
  else if opField w = 6#4 then decodeFixed (chField w) .recover
  else .error .unknownOperation

/-- A command word from its fields (R60). -/
def commandWord (ch : BitVec 2) (op : BitVec 4) : Word := 0#26 ++ ch ++ op

/-- The command word of a command (the table of R62). -/
def encode : Instr → Word
  | .gen ch => commandWord ch 1#4
  | .comb => commandWord 0#2 2#4
  | .corr ch => commandWord ch 3#4
  | .corr2 => commandWord 0#2 4#4
  | .fsel => commandWord 0#2 5#4
  | .recover => commandWord 0#2 6#4

/-- The command word whose low `nbits` bits are `w` and whose other bits are 0, as the opcode table numbers bits. -/
def tableWord (nbits w : Nat) : Word := BitVec.ofNat 32 (w % 2 ^ nbits)

/-- The command this decoder reads from an opcode-table word. -/
def decodeTableWord (nbits w : Nat) : Option Instr :=
  match decode (tableWord nbits w) with
  | .ok i => some i
  | .error _ => none

end Sys2Proof
end

