-- ==== Sys2Proof/Machine/State.lean ====
section
/-! DEFINITION. The state of the engine as plain data (10_state.md), the reasons a step can stop, and the state after
reset. -/

namespace Sys2Proof.Machine

/-- The eight registers of one channel (10_state.md R10, R24), 32 bits each. -/
structure ChannelRegs where
  /-- DEG[k], the degree (R13). -/
  deg : Word
  /-- MASK[k], the feedback mask (R14). -/
  mask : Word
  /-- FILL[k], the shift register (R12). -/
  fill : Word
  /-- NREQ[k], the prefix length N_req (R15). -/
  nreq : Word
  /-- THRESH[k], the acceptance threshold C (R16). -/
  thresh : Word
  /-- RFILL[k], the recovered fill (R17). -/
  rfill : Word
  /-- RDIST[k], the winning distance (R18). -/
  rdist : Word
  /-- RSTAT[k], the outcome code of the last search in bits [3:0] (R19). -/
  rstat : Word
deriving DecidableEq, Repr

/-- DIST_NONE, "a value no distance can take" (R18). -/
abbrev distNone : Word := 0xFFFFFFFF#32

/-- One bit memory: the elements written since reset with their bits, addresses strictly rising. An element that is not
listed has not been written since reset and holds its free bit (`Config.resetBit`, log 3). One element is one bit, so
a cell holds a Bool, not a byte (20_memory.md R43, log 4). -/
abbrev BitMemory := List (Nat × Bool)

/-- The sequencer's control position (R28). -/
inductive Phase where
  | idle | check | scan1 | scan2 | scan12 | regen | scan3 | verify
deriving DecidableEq, Repr

/-- The registers of one search unit (R28): the candidate counter, the candidate state, the best state, the best
distance and the distance accumulator. The widths are those of DMAX = 32 (log 6). -/
structure SearchUnit where
  j : BitVec 33
  cand : Word
  bests : Word
  bestr : Word
  r : Word
deriving DecidableEq, Repr

/-- One operation of the host (20_memory.md R46), or its reset input (70_reset_and_hazards.md R210). -/
inductive HostOp where
  | regRead (r : Nat)
  | regWrite (r : Nat) (v : Word)
  | memRead (space addr : Nat)
  | memWrite (space addr : Nat) (b : Bool)
  | reset
deriving DecidableEq, Repr

/-- The answer to the last host operation (R46). -/
inductive Reply where
  /-- No operation has been served since reset. -/
  | none
  /-- The value of a register. -/
  | word (v : Word)
  /-- The value of a memory element. -/
  | bit (b : Bool)
  /-- A write has completed. -/
  | done
  /-- "it is the bus's answer to the host, not an engine outcome" (R47). -/
  | busError
deriving DecidableEq, Repr

/-- The reasons a step stops with a fault. -/
inductive Fault where
  /-- Raised by the step when a host operation is to be served while PHASE is not IDLE: "Host operations happen ...
  only while `PHASE = IDLE`" (R46), "the host cannot access the engine meanwhile" (D1). No step leads to such a state.
  Safe: the model stops where the spec has no behaviour (log 7). -/
  | hostAccessWhileRunning
deriving DecidableEq, Repr

/-- The reasons a step has no meaning. -/
inductive Refusal where
  /-- A command whose meaning is not written yet. No arm raises it. Safe. -/
  | notModelled (mnemonic : String)
deriving DecidableEq, Repr

/-- The state of the engine (10_state.md R10, R28), the host operations to come, and the model's own fields. -/
structure State where
  /-- DMAX and LMAX, which no step changes (R4, R5; log 5). -/
  params : Params
  /-- Channel 1, the source's L1. -/
  ch1 : ChannelRegs
  /-- Channel 2, the source's L2. -/
  ch2 : ChannelRegs
  /-- Channel 3, the source's L3. -/
  ch3 : ChannelRegs
  /-- GLEN (R20). -/
  glen : Word
  /-- TLEN (R21). -/
  tlen : Word
  /-- CSTAT (R23). -/
  cstat : Word
  /-- TGT, the observed target (R26). -/
  tgt : BitMemory
  /-- SEQ[1]. -/
  seq1 : BitMemory
  /-- SEQ[2]. -/
  seq2 : BitMemory
  /-- SEQ[3]. -/
  seq3 : BitMemory
  /-- OUT, the combiner's output. -/
  out : BitMemory
  /-- The model's own: how many resets have given the memories fresh free bits (log 3). -/
  memEpoch : Nat
  /-- PHASE (R28). -/
  phase : Phase
  /-- Search unit A (R28). -/
  unitA : SearchUnit
  /-- Search unit B (R28). -/
  unitB : SearchUnit
  /-- The model's own: the host operations not yet served, oldest first (log 1). -/
  pending : List HostOp
  /-- The model's own: the answer to the last host operation (log 2). -/
  reply : Reply
deriving DecidableEq, Repr

/-- A channel right after reset: "all zero except `RDIST[k] = 0xFFFFFFFF`" (R31). -/
abbrev ChannelRegs.reset : ChannelRegs :=
  { deg := 0, mask := 0, fill := 0, nreq := 0, thresh := 0, rfill := 0, rdist := distNone, rstat := 0 }

/-- A search unit right after reset. DESIGN CHOICE: R31 leaves these registers unspecified (log 6). -/
abbrev SearchUnit.reset : SearchUnit := { j := 0, cand := 0, bests := 0, bestr := 0, r := 0 }

/-- The engine right after reset (10_state.md R31), at the default parameters, with nothing pending. -/
def State.reset : State where
  params := Params.default
  ch1 := ChannelRegs.reset
  ch2 := ChannelRegs.reset
  ch3 := ChannelRegs.reset
  glen := 0
  tlen := 0
  cstat := 0
  tgt := []
  seq1 := []
  seq2 := []
  seq3 := []
  out := []
  memEpoch := 0
  phase := .idle
  unitA := SearchUnit.reset
  unitB := SearchUnit.reset
  pending := []
  reply := .none

end Sys2Proof.Machine
end

