-- ==== Sys2Proof/Machine/Flags.lean ====
section
/-! DEFINITION. The outcome codes and the status words (60_exceptions.md R180, 10_state.md R19, R23). The engine has no
condition codes (10_state.md section 4): "The only status is the outcome code". -/

namespace Sys2Proof.Machine

/-- The outcome codes (R180). -/
inductive Code where
  | none | ok | recoveryFailure | invalidParameter | degenerateState | illegalCommand
deriving DecidableEq, Repr

/-- The 4-bit value of an outcome code (R180). -/
def Code.bits : Code → BitVec 4
  | .none => 0#4
  | .ok => 1#4
  | .recoveryFailure => 2#4
  | .invalidParameter => 3#4
  | .degenerateState => 4#4
  | .illegalCommand => 5#4

/-- The word RSTAT[k] holds for a code: "Bits [3:0] hold the outcome code ...; bits [31:4] read as zero" (R19). -/
def rstatWord (c : Code) : Word := 0#28 ++ c.bits

/-- The word CSTAT holds: "bits [3:0] `CODE` ...; bits [5:4] `CH` ...; bits [31:6] read as zero" (R23). -/
def cstatWord (code : BitVec 4) (ch : BitVec 2) : Word := 0#26 ++ ch ++ code

/-- The CODE field of a status word. -/
def codeField (w : Word) : BitVec 4 := w.extractLsb' 0 4

/-- The CH field of CSTAT. -/
def blameField (w : Word) : BitVec 2 := w.extractLsb' 4 2

end Sys2Proof.Machine
end

