-- ==== Sys2Proof/Machine/Ops.lean ====
section
/-! DEFINITION. The named operations over the registers and the five bit memories, ending a command with an outcome
(the engine's way of taking an exception, 60_exceptions.md R186), and reset (70_reset_and_hazards.md R210). -/

namespace Sys2Proof.Machine

/-! ### Channels -/

/-- The three channels (10_state.md R11). -/
inductive Channel where
  | c1 | c2 | c3
deriving DecidableEq, Repr

/-- The number of a channel as a CH field holds it. -/
def Channel.field : Channel → BitVec 2
  | .c1 => 1#2
  | .c2 => 2#2
  | .c3 => 3#2

/-- The channel a CH field names; 0 names none (30_encoding.md R63). -/
def Channel.ofField (ch : BitVec 2) : Option Channel :=
  if ch = 1#2 then some .c1 else if ch = 2#2 then some .c2 else if ch = 3#2 then some .c3 else none

/-- The registers of channel `k`. -/
def State.chan (s : State) : Channel → ChannelRegs
  | .c1 => s.ch1
  | .c2 => s.ch2
  | .c3 => s.ch3

/-- Channel `k`'s registers replaced. -/
def State.setChan (s : State) (k : Channel) (c : ChannelRegs) : State :=
  match k with
  | .c1 => { s with ch1 := c }
  | .c2 => { s with ch2 := c }
  | .c3 => { s with ch3 := c }

/-- `FILL[k] <- f`. -/
def State.setFill (s : State) (k : Channel) (f : Word) : State :=
  s.setChan k { s.chan k with fill := f }

/-- `RFILL[k] <- f; RDIST[k] <- d; RSTAT[k] <- c`: the three result registers are always written together. -/
def State.setResult (s : State) (k : Channel) (f d : Word) (c : Code) : State :=
  s.setChan k { s.chan k with rfill := f, rdist := d, rstat := rstatWord c }

/-! ### The search units and the sequencer -/

/-- The two search units (R28). -/
inductive UnitId where
  | a | b
deriving DecidableEq, Repr

/-- The registers of a search unit. -/
def State.unit (s : State) : UnitId → SearchUnit
  | .a => s.unitA
  | .b => s.unitB

/-- A search unit's registers replaced. -/
def State.setUnit (s : State) (w : UnitId) (u : SearchUnit) : State :=
  match w with
  | .a => { s with unitA := u }
  | .b => { s with unitB := u }

/-- `PHASE <- p`. -/
def State.setPhase (s : State) (p : Phase) : State := { s with phase := p }

/-! ### The bit memories -/

/-- The five bit memories (20_memory.md R40). -/
inductive Space where
  | tgt | seq (k : Channel) | out
deriving DecidableEq, Repr

/-- The space id of a memory (R40). -/
def Space.id : Space → Nat
  | .tgt => 0
  | .seq .c1 => 1
  | .seq .c2 => 2
  | .seq .c3 => 3
  | .out => 4

/-- The memory a space id names; an id above 4 names none (R46). -/
def Space.ofId (n : Nat) : Option Space :=
  if n = 0 then some .tgt else if n = 1 then some (.seq .c1) else if n = 2 then some (.seq .c2)
  else if n = 3 then some (.seq .c3) else if n = 4 then some .out else none

/-- The cells of a memory. -/
def State.mem (s : State) : Space → BitMemory
  | .tgt => s.tgt
  | .seq .c1 => s.seq1
  | .seq .c2 => s.seq2
  | .seq .c3 => s.seq3
  | .out => s.out

/-- The cells of a memory replaced. -/
def State.setMem (s : State) (sp : Space) (m : BitMemory) : State :=
  match sp with
  | .tgt => { s with tgt := m }
  | .seq .c1 => { s with seq1 := m }
  | .seq .c2 => { s with seq2 := m }
  | .seq .c3 => { s with seq3 := m }
  | .out => { s with out := m }

/-- The one canonical form of a memory: addresses strictly rising. -/
abbrev BitMemory.wf (m : BitMemory) : Prop := m.Pairwise (fun c d => c.1 < d.1)

/-- What a memory lists at an address: nothing where the element has not been written since reset. -/
def BitMemory.read : BitMemory → Nat → Option Bool
  | [], _ => none
  | (x, v) :: rest, a => if x = a then some v else BitMemory.read rest a

/-- A memory with one element written. -/
def BitMemory.write : BitMemory → Nat → Bool → BitMemory
  | [], a, b => [(a, b)]
  | (x, v) :: rest, a, b =>
    if a < x then (a, b) :: (x, v) :: rest
    else if a = x then (a, b) :: rest
    else (x, v) :: BitMemory.write rest a b

/-- A memory with the bits of a list written from address `a` upward. -/
def BitMemory.writeFrom (m : BitMemory) (a : Nat) : List Bool → BitMemory
  | [] => m
  | b :: bs => BitMemory.writeFrom (BitMemory.write m a b) (a + 1) bs

/-- `MemRead(S, a)`, the bit at address `a` of memory `sp`: what was last written there, else the element's free bit
(R49, R31). -/
def State.bitAt (s : State) (sp : Space) (a : Nat) : Bool :=
  match BitMemory.read (s.mem sp) a with
  | some b => b
  | none => Config.resetBit s.memEpoch sp.id a

/-- `MemWrite(S, a, b)`. -/
def State.setBit (s : State) (sp : Space) (a : Nat) (b : Bool) : State :=
  s.setMem sp (BitMemory.write (s.mem sp) a b)

/-- The sequence at addresses 0 to `len - 1` of a memory (R41). -/
def State.readSeq (s : State) (sp : Space) (len : Nat) : List Bool :=
  (List.range len).map (s.bitAt sp)

/-- A sequence written to addresses 0 upward of a memory: "a command that writes a sequence of length `L` writes exactly
those addresses" (R41). -/
def State.writeSeq (s : State) (sp : Space) (bits : List Bool) : State :=
  s.setMem sp (BitMemory.writeFrom (s.mem sp) 0 bits)

/-! ### Ending a command -/

/-- The end of a command: "Every command writes `CSTAT` exactly once, at its end" (R23), and "the sequencer returns to
`IDLE`" (R186). -/
def State.conclude (s : State) (code : BitVec 4) (ch : BitVec 2) : State :=
  { s with cstat := cstatWord code ch, phase := .idle }

/-- The end of a command that succeeded: `CSTAT <- (CODE = OK, CH = 0)`. -/
def State.concludeOk (s : State) : State := s.conclude Code.ok.bits 0#2

/-- `raise X(k)`: the command ends with outcome `X` blamed on `ch` and writes nothing else (00_scope.md section 5,
60_exceptions.md R186). This is the engine's whole exception entry: "No state is saved, no mode changes, no control is
transferred". There is no return from one (R187). -/
def State.raise (s : State) (code : Code) (ch : BitVec 2) : State := s.conclude code.bits ch

/-- IllegalCommand: "`CSTAT <- (ILLEGAL_COMMAND, CH = 0)`; nothing else changes" (R184). -/
def State.raiseIllegal (s : State) : State := s.raise .illegalCommand 0#2

/-- `fail(k, code)`: `RFILL[k] <- 0; RDIST[k] <- DIST_NONE; RSTAT[k] <- code` (42_correlation_search.md R117). -/
def State.failSearch (s : State) (k : Channel) (code : Code) : State := s.setResult k 0#32 distNone code

/-- Whether `RSTAT[k]` is OK. -/
def State.searchOk (s : State) (k : Channel) : Bool := decide ((s.chan k).rstat = rstatWord .ok)

/-- The first of the given channels whose search did not end OK: "`CSTAT` reports the lowest-numbered channel whose
outcome is not `OK`" (R185). -/
def State.firstFailure (s : State) (ks : List Channel) : Option Channel := ks.find? (fun k => !s.searchOk k)

/-- The end of a command that searched on the given channels: `(RSTAT[k], k)` for the first that failed, else `(OK, 0)`
(R117, R119, R145). -/
def State.concludeSearch (s : State) (ks : List Channel) : State :=
  match s.firstFailure ks with
  | some k => s.conclude (codeField (s.chan k).rstat) k.field
  | none => s.concludeOk

/-! ### The host's side -/

/-- The answer to a host operation. -/
def State.setReply (s : State) (r : Reply) : State := { s with reply := r }

/-- The host operations still to come. -/
def State.setPending (s : State) (ops : List HostOp) : State := { s with pending := ops }

/-- Reset: every register at its reset value, the memories with fresh unspecified contents (70_reset_and_hazards.md
R210; log 9). The parameters and the host's later operations are not the engine's state. -/
def State.applyReset (s : State) : State :=
  { State.reset with
    params := s.params
    memEpoch := s.memEpoch + 1
    pending := s.pending
    reply := .done }

end Sys2Proof.Machine
end

