-- ==== Sys2Proof/Machine/Operands.lean ====
section
/-! DEFINITION. The operands of the commands: a command "takes every other operand from registers and memories"
(30_encoding.md R60). Here are their widths as numbers and the parameter checks (60_exceptions.md R182). -/

namespace Sys2Proof.Machine

/-- `n = DEG[k]` as a number. -/
def State.degree (s : State) (k : Channel) : Nat := (s.chan k).deg.toNat

/-- The degree checks: not "degree too small", not "degree too large" (R182). -/
abbrev State.DegreeLegal (s : State) (k : Channel) : Prop := 2 ≤ s.degree k ∧ s.degree k ≤ s.params.dmax

/-- The mask checks: not "empty mask", not "mask wider than the register" (R182). -/
abbrev State.MaskLegal (s : State) (k : Channel) : Prop :=
  (s.chan k).mask ≠ 0#32 ∧ (s.chan k).mask.toNat < 2 ^ s.degree k

/-- The generation length check: not "generation longer than the memory" (R182). -/
abbrev State.GenLengthLegal (s : State) : Prop := s.glen.toNat ≤ s.params.lmax

/-- The fill width check: not "fill wider than the register" (R182). -/
abbrev State.FillWidthLegal (s : State) (k : Channel) : Prop := (s.chan k).fill.toNat < 2 ^ s.degree k

/-- The target length checks: not "zero-length target", not "target longer than the memory" (R182). -/
abbrev State.TargetLegal (s : State) : Prop := s.tlen ≠ 0#32 ∧ s.tlen.toNat ≤ s.params.lmax

/-- The prefix length checks: not "zero-length prefix", not "prefix longer than target" (R182). -/
abbrev State.PrefixLegal (s : State) (k : Channel) : Prop :=
  (s.chan k).nreq ≠ 0#32 ∧ (s.chan k).nreq.toNat ≤ s.tlen.toNat

/-- All the checks of a correlation search on channel `k`, in the order of R117. -/
abbrev State.CorrLegal (s : State) (k : Channel) : Prop :=
  s.DegreeLegal k ∧ s.MaskLegal k ∧ s.TargetLegal ∧ s.PrefixLegal k

/-- All the checks of the consistency search, in the order of R145. -/
abbrev State.FselLegal (s : State) : Prop := s.DegreeLegal .c3 ∧ s.MaskLegal .c3 ∧ s.TargetLegal

end Sys2Proof.Machine
end

