-- ==== Sys2Proof/Machine/Geffe.lean ====
section
/-! DEFINITION. The Geffe combiner in its two forms (41_geffe_combine.md R100, R101) and over sequences. -/

namespace Sys2Proof.Machine

/-- `geffe(x, y, s)`: x if s = 1, y if s = 0 (R100). -/
def geffe (x y s : Bool) : Bool := if s then x else y

/-- `geffe_bool(x, y, s) = (s & x) xor ((1 xor s) & y)` (R101). -/
def geffeBool (x y s : Bool) : Bool := (s && x) ^^ ((true ^^ s) && y)

/-- A combiner applied index by index to X, Y and the selector. -/
def combineWith (g : Bool → Bool → Bool → Bool) : List Bool → List Bool → List Bool → List Bool
  | x :: xs, y :: ys, z :: zs => g x y z :: combineWith g xs ys zs
  | _, _, _ => []

/-- `OUT[i] <- geffe(SEQ[1][i], SEQ[2][i], SEQ[3][i])` for `i < len` (R102; stage 4 of R161). -/
def State.combineInto (s : State) (len : Nat) : State :=
  s.writeSeq .out
    (combineWith geffe (s.readSeq (.seq .c1) len) (s.readSeq (.seq .c2) len) (s.readSeq (.seq .c3) len))

end Sys2Proof.Machine
end

