-- ==== Sys2Proof/Machine/Combine.lean ====
section
/-! DEFINITION. The command COMB (41_geffe_combine.md R102). -/

namespace Sys2Proof.Machine

/-- `COMB` (R102): its one check, then the combination. -/
def execComb (s : State) : Host.Outcome State Fault Refusal :=
  if ¬ s.GenLengthLegal then .next (s.raise .invalidParameter 0#2)
  else .next (s.combineInto s.glen.toNat).concludeOk

end Sys2Proof.Machine
end

