-- ==== Sys2Proof/Machine/Lfsr.lean ====
section
/-! DEFINITION. The LFSR step, generation and the run from fill 1 (40_lfsr_generate.md R80 to R82, R90), and writing a
generated sequence to a channel. -/

namespace Sys2Proof.Machine

/-- `parity(v)`: "the XOR of all bits of `v`" (00_scope.md section 5). -/
def parity (v : Word) : Bool := (List.range 32).foldl (fun p i => p ^^ v.getLsbD i) false

/-- `lfsr_step(n, m, f) = (f >> 1) | (parity(f & m) << (n - 1))` (R80). -/
def lfsrStep (n : Nat) (m f : Word) : Word := (f >>> 1) ||| (Word.ofBit (parity (f &&& m)) <<< (n - 1))

/-- `lfsr_out(f) = f[0]` (R81). -/
def lfsrOut (f : Word) : Bool := f.getLsbD 0

/-- `lfsr_gen(n, m, f, L)`: the `L` output bits and the post-run state (R82). -/
def lfsrGen (n : Nat) (m : Word) : Word → Nat → List Bool × Word
  | f, 0 => ([], f)
  | f, len + 1 =>
    let rest := lfsrGen n m (lfsrStep n m f) len
    (lfsrOut f :: rest.1, rest.2)

/-- `run_state(n, m, j)`: the state after `j` steps from the state 1 (R90). -/
def runState (n : Nat) (m : Word) : Nat → Word
  | 0 => 1#32
  | j + 1 => lfsrStep n m (runState n m j)

/-- `run_bit(n, m, t) = run_state(n, m, t)[0]` (R90). -/
def runBit (n : Nat) (m : Word) (t : Nat) : Bool := lfsrOut (runState n m t)

/-- Generate `len` bits of channel `k` from `seed` into `SEQ[k]` and leave the post-run state in `FILL[k]` (R83; stages 2
and 4 of R161). -/
def State.generateInto (s : State) (k : Channel) (seed : Word) (len : Nat) : State :=
  let g := lfsrGen (s.degree k) (s.chan k).mask seed len
  (s.writeSeq (.seq k) g.1).setFill k g.2

end Sys2Proof.Machine
end

