-- ==== Sys2Proof/Machine/Search.lean ====
section
/-! DEFINITION. The two searches: the correlation search (42_correlation_search.md R111 to R117) and the consistency
search (43_consistency_search.md R141 to R145). -/

namespace Sys2Proof.Machine

/-! ### The run and its windows -/

/-- The length of the run a search builds: "at least `2^n + max(N, n)` bits long for a loop bound of `2^n`" (R121). -/
def runLength (n len : Nat) : Nat := 2 ^ n + max len n

/-- RUN, "the generated run" of a search: the sequence from fill 1 (R111; 10_state.md R27). -/
def runBuffer (n : Nat) (m : Word) (len : Nat) : List Bool := (lfsrGen n m 1#32 (runLength n len)).1

/-- The window of `len` bits of a run at offset `j`. -/
def window (run : List Bool) (j len : Nat) : List Bool := (run.drop j).take len

/-- "count of differing bit positions between two equal-length bit sequences" (00_scope.md section 6): the sum of
`generated[j+i] xor target[i]` of R114. -/
def hammingDistance : List Bool → List Bool → Nat
  | x :: xs, y :: ys => (x ^^ y).toNat + hammingDistance xs ys
  | _, _ => 0

/-- `CAND_{j+1} = (CAND_j >> 1) | (run_bit(n, m, n + j) << (n - 1))` (R112). -/
def successor (n : Nat) (run : List Bool) (j : Nat) (cand : Word) : Word :=
  (cand >>> 1) ||| (Word.ofBit (run.getD (n + j) false) <<< (n - 1))

/-- The end of a sequencer step that goes on: CAND becomes the next candidate (R112), and J advances by one. J "never
wraps: the search ends when `J` would become `2^n`" (10_state.md R28), so the last step leaves it at `2^n - 1`. -/
def SearchUnit.advance (u : SearchUnit) (n : Nat) (run : List Bool) : SearchUnit :=
  { u with
    j := if u.j.toNat + 1 < 2 ^ n then u.j + 1#33 else u.j
    cand := successor n run u.j.toNat u.cand }

/-! ### The correlation search -/

/-- What one correlation search reads (R110): the degree, its run, the first N_req target bits, and C. -/
structure CorrInput where
  n : Nat
  run : List Bool
  nreq : Nat
  target : List Bool
  threshold : Word
deriving DecidableEq, Repr

/-- The registers and target bits a search on channel `k` uses; none where a check of R117 fails. -/
def State.corrInput (s : State) (k : Channel) : Option CorrInput :=
  if s.CorrLegal k then
    some {
      n := s.degree k
      run := runBuffer (s.degree k) (s.chan k).mask (s.chan k).nreq.toNat
      nreq := (s.chan k).nreq.toNat
      target := s.readSeq .tgt (s.chan k).nreq.toNat
      threshold := (s.chan k).thresh }
  else none

/-- One sequencer step: "`J` holds the index of the candidate being scored" (10_state.md R28); that candidate is kept if it
is nonzero, below the threshold and strictly below the best so far, and J advances (the loop body of R117; R114,
R115). -/
def corrStep (x : CorrInput) (u : SearchUnit) : SearchUnit :=
  let r := BitVec.ofNat 32 (hammingDistance (window x.run u.j.toNat x.nreq) x.target)
  let accepted := u.cand ≠ 0#32 ∧ r < x.threshold ∧ r < u.bestr
  SearchUnit.advance
    { u with
      bests := if accepted then u.cand else u.bests
      bestr := if accepted then r else u.bestr
      r := r }
    x.n x.run

/-- `CAND <- 1; BESTS <- 0; BESTR <- DIST_NONE`, and the loop's `J = 0` (R117). -/
def SearchUnit.start (u : SearchUnit) : SearchUnit := { u with j := 0, cand := 1#32, bests := 0#32, bestr := distNone }

/-- The loop `for J = 0 .. 2^n - 1` of R117: one sequencer step per candidate. -/
def corrScan (x : CorrInput) (u : SearchUnit) : SearchUnit := (corrStep x)^[2 ^ x.n] u

/-- The result of a complete scan: the best candidate, or RECOVERY_FAILURE if none was accepted (R116). -/
def State.corrResult (s : State) (k : Channel) (u : SearchUnit) : State :=
  if u.bestr ≠ distNone then s.setResult k u.bests u.bestr .ok else s.failSearch k .recoveryFailure

/-- What a correlation search does to the unit that runs it. -/
def corrFinal (x : Option CorrInput) (u : SearchUnit) : SearchUnit :=
  match x with
  | some x => corrScan x u.start
  | none => u

/-- The end of a correlation search of unit `w` on channel `k`: INVALID_PARAMETER where a check failed, else the unit's
registers and the result. -/
def State.corrCommit (s : State) (w : UnitId) (k : Channel) (x : Option CorrInput) (u : SearchUnit) : State :=
  match x with
  | some _ => (s.setUnit w u).corrResult k u
  | none => s.failSearch k .invalidParameter

/-- `corr_unit(k)` on search unit `w` (R117). -/
def State.corrUnit (s : State) (w : UnitId) (k : Channel) : State :=
  let x := s.corrInput k
  s.corrCommit w k x (corrFinal x (s.unit w))

/-! ### The consistency search -/

/-- What the consistency search reads (R140). -/
structure FselInput where
  n : Nat
  run : List Bool
  len : Nat
  xs : List Bool
  ys : List Bool
  target : List Bool
deriving DecidableEq, Repr

/-- The registers and memories `FSEL` uses; none where a check of R145 fails. -/
def State.fselInput (s : State) : Option FselInput :=
  if s.FselLegal then
    some {
      n := s.degree .c3
      run := runBuffer (s.degree .c3) (s.chan .c3).mask s.tlen.toNat
      len := s.tlen.toNat
      xs := s.readSeq (.seq .c1) s.tlen.toNat
      ys := s.readSeq (.seq .c2) s.tlen.toNat
      target := s.readSeq .tgt s.tlen.toNat }
  else none

/-- `match(J)`: the boolean combiner with the window of candidate `j` as selector gives the target (R142). -/
def fselMatch (x : FselInput) (j : Nat) : Bool :=
  combineWith geffeBool x.xs x.ys (window x.run j x.len) == x.target

/-- The loop of R145 with `left` candidates still to score, the next of index J: the unit where it ended, and whether a
candidate matched. One sequencer step tests one candidate; if it does not match, J advances. "The scan stops at the
first match" (R143), with J and CAND those of the candidate that matched. -/
def fselScan (x : FselInput) : Nat → SearchUnit → SearchUnit × Bool
  | 0, u => (u, false)
  | left + 1, u =>
    if u.cand ≠ 0#32 ∧ fselMatch x u.j.toNat = true then (u, true)
    else fselScan x left (u.advance x.n x.run)

/-- `fsel_unit()` on search unit A (R145). -/
def State.fselUnit (s : State) : State :=
  match s.fselInput with
  | none => s.failSearch .c3 .invalidParameter
  | some x =>
    let found := fselScan x (2 ^ x.n) { s.unitA with j := 0, cand := 1#32 }
    let t := s.setUnit .a found.1
    if found.2 then t.setResult .c3 found.1.cand 0#32 .ok else t.failSearch .c3 .recoveryFailure

end Sys2Proof.Machine
end

