-- ==== Sys2Proof/Machine/Consistency.lean ====
section
/-! DEFINITION. The command FSEL (43_consistency_search.md R145). -/

namespace Sys2Proof.Machine

/-- `FSEL` (R145). -/
def execFsel (s : State) : Host.Outcome State Fault Refusal := .next (s.fselUnit.concludeSearch [.c3])

end Sys2Proof.Machine
end

