-- ==== Sys2Proof/Machine/Correlate.lean ====
section
/-! DEFINITION. The commands CORR k and CORR2 (42_correlation_search.md R117, R119), and CORR2 under any interleaving of
its two units' steps. -/

namespace Sys2Proof.Machine

/-- `CORR k` (R117), on search unit A (10_state.md R28). With CH = 0 the command has no legal word: IllegalCommand
(30_encoding.md R64). -/
def execCorr (ch : BitVec 2) (s : State) : Host.Outcome State Fault Refusal :=
  match Channel.ofField ch with
  | some k => .next ((s.corrUnit .a k).concludeSearch [k])
  | none => .next s.raiseIllegal

/-- `corr_unit(1)` on unit A and `corr_unit(2)` on unit B: "A model may implement `CORR2` as the sequential composition"
(R119). -/
def State.corrBoth (s : State) : State := (s.corrUnit .a .c1).corrUnit .b .c2

/-- `CORR2` (R119). -/
def execCorr2 (s : State) : Host.Outcome State Fault Refusal :=
  .next (s.corrBoth.concludeSearch [.c1, .c2])

/-! ### Any interleaving of the two units -/

/-- The number of sequencer steps a search takes: one per candidate, none where a check failed. -/
def corrStepCount (x : Option CorrInput) : Nat :=
  match x with
  | some x => 2 ^ x.n
  | none => 0

/-- One sequencer step of unit `w`, the other unit left alone. -/
def dualStep (xa xb : Option CorrInput) (p : SearchUnit × SearchUnit) (w : UnitId) : SearchUnit × SearchUnit :=
  match w with
  | .a => (match xa with | some x => corrStep x p.1 | none => p.1, p.2)
  | .b => (p.1, match xb with | some x => corrStep x p.2 | none => p.2)

/-- The registers a unit starts a search with. -/
def corrInitial (x : Option CorrInput) (u : SearchUnit) : SearchUnit :=
  match x with
  | some _ => u.start
  | none => u

/-- `corr_unit(1) || corr_unit(2)` with the units' steps in the order `events` gives, each event one step of the unit it
names: both check and start, the steps happen, and both commit when both have ended (R119, 60_exceptions.md R190;
log 10). -/
def State.corrInterleaved (s : State) (events : List UnitId) : State :=
  let xa := s.corrInput .c1
  let xb := s.corrInput .c2
  let p := events.foldl (dualStep xa xb) (corrInitial xa s.unitA, corrInitial xb s.unitB)
  (s.corrCommit .a .c1 xa p.1).corrCommit .b .c2 xb p.2

end Sys2Proof.Machine
end

