-- ==== Sys2Proof/Machine/Generate.lean ====
section
/-! DEFINITION. The command GEN k (40_lfsr_generate.md R83). -/

namespace Sys2Proof.Machine

/-- `GEN k` on a channel: the checks in the order of R83, then the generation. -/
def State.generate (s : State) (k : Channel) : State :=
  if ¬ s.DegreeLegal k then s.raise .invalidParameter k.field
  else if ¬ s.MaskLegal k then s.raise .invalidParameter k.field
  else if ¬ s.GenLengthLegal then s.raise .invalidParameter k.field
  else if ¬ s.FillWidthLegal k then s.raise .invalidParameter k.field
  else if (s.chan k).fill = 0#32 then s.raise .degenerateState k.field
  else (s.generateInto k (s.chan k).fill s.glen.toNat).concludeOk

/-- `GEN k` (R83). With CH = 0 the command has no legal word: IllegalCommand (R64). -/
def execGen (ch : BitVec 2) (s : State) : Host.Outcome State Fault Refusal :=
  match Channel.ofField ch with
  | some k => .next (s.generate k)
  | none => .next s.raiseIllegal

end Sys2Proof.Machine
end

