-- ==== Sys2Proof/Machine/Recover.lean ====
section
/-! DEFINITION. The command RECOVER (44_recover_pipeline.md R160 to R163). -/

namespace Sys2Proof.Machine

/-- `for k = 1, 2, 3:  RFILL[k] <- 0;  RDIST[k] <- DIST_NONE;  RSTAT[k] <- NONE` (R161). -/
def State.clearResults (s : State) : State :=
  ((s.failSearch .c1 .none).failSearch .c2 .none).failSearch .c3 .none

/-- `bad[k]` of R161, negated: channels 1 and 2 also check their prefix length. -/
def State.recoverLegal (s : State) : Channel → Bool
  | .c1 => decide (s.CorrLegal .c1)
  | .c2 => decide (s.CorrLegal .c2)
  | .c3 => decide s.FselLegal

/-- `if bad[k]: RSTAT[k] <- INVALID_PARAMETER` (R161; the channel's other result registers are already cleared). -/
def State.markBad (s : State) (k : Channel) : State :=
  if s.recoverLegal k then s else s.failSearch k .invalidParameter

/-- Stage 1: both correlation searches (R160). -/
def State.recoverSearch (s : State) : State := (s.setPhase .scan12).corrBoth

/-- Stage 2: X and Y regenerated from the recovered fills at length N (R160). -/
def State.recoverRegenerate (s : State) : State :=
  let s1 := (s.setPhase .regen).generateInto .c1 (s.chan .c1).rfill s.tlen.toNat
  s1.generateInto .c2 (s1.chan .c2).rfill s1.tlen.toNat

/-- Stage 3: the consistency search (R160). -/
def State.recoverSelect (s : State) : State := (s.setPhase .scan3).fselUnit

/-- Stage 4: the selector sequence and the verification stream (R160). -/
def State.recoverVerify (s : State) : State :=
  ((s.setPhase .verify).generateInto .c3 (s.chan .c3).rfill s.tlen.toNat).combineInto s.tlen.toNat

/-- Stages 1 to 4, stopping after a stage that did not end OK (R163). -/
def State.recoverStages (s : State) : State :=
  let s1 := s.recoverSearch
  match s1.firstFailure [.c1, .c2] with
  | some k => s1.conclude (codeField (s1.chan k).rstat) k.field
  | none =>
    let s3 := s1.recoverRegenerate.recoverSelect
    match s3.firstFailure [.c3] with
    | some k => s3.conclude (codeField (s3.chan k).rstat) k.field
    | none => s3.recoverVerify.concludeOk

/-- `RECOVER` (R161): clear the results, check all three channels, then the stages. -/
def execRecover (s : State) : Host.Outcome State Fault Refusal :=
  let cleared := (s.setPhase .check).clearResults
  let marked := ((cleared.markBad .c1).markBad .c2).markBad .c3
  match [Channel.c1, .c2, .c3].find? (fun k => !cleared.recoverLegal k) with
  | some k => .next (marked.raise .invalidParameter k.field)
  | none => .next cleared.recoverStages

end Sys2Proof.Machine
end

