-- ==== Sys2Proof/Machine/Dispatch.lean ====
section
/-! DEFINITION. One arm per command, each a direct call of its meaning. -/

namespace Sys2Proof.Machine

def exec (i : Instr) (s : State) : Host.Outcome State Fault Refusal :=
  match i with
  | .gen ch => Sys2Proof.Machine.execGen ch s
  | .comb => Sys2Proof.Machine.execComb s
  | .corr ch => Sys2Proof.Machine.execCorr ch s
  | .corr2 => Sys2Proof.Machine.execCorr2 s
  | .fsel => Sys2Proof.Machine.execFsel s
  | .recover => Sys2Proof.Machine.execRecover s

end Sys2Proof.Machine
end

