-- ==== Sys2Proof/Machine/Registers.lean ====
section
/-! DEFINITION. The register map of the host (10_state.md R24, R25). -/

namespace Sys2Proof.Machine

/-- A register of a channel, in the order of R24. -/
inductive ChannelReg where
  | deg | mask | fill | nreq | thresh | rfill | rdist | rstat
deriving DecidableEq, Repr

/-- A mapped register. -/
inductive Reg where
  | cmd | cstat | glen | tlen
  | chan (k : Channel) (q : ChannelReg)
deriving DecidableEq, Repr

/-- The channel whose registers have base `16 * k` (R24). -/
def Channel.ofBase (k : Nat) : Option Channel :=
  if k = 1 then some .c1 else if k = 2 then some .c2 else if k = 3 then some .c3 else none

/-- The channel register at an offset from its base (R24). -/
def ChannelReg.ofOffset (o : Nat) : Option ChannelReg :=
  if o = 0 then some .deg else if o = 1 then some .mask else if o = 2 then some .fill else if o = 3 then some .nreq
  else if o = 4 then some .thresh else if o = 5 then some .rfill else if o = 6 then some .rdist
  else if o = 7 then some .rstat else none

/-- The register a register number names: "Every other register number is unmapped" (R24). -/
def Reg.ofNumber (r : Nat) : Option Reg :=
  if r = 0 then some .cmd else if r = 1 then some .cstat else if r = 2 then some .glen else if r = 3 then some .tlen
  else
    match Channel.ofBase (r / 16), ChannelReg.ofOffset (r % 16) with
    | some k, some q => some (.chan k q)
    | _, _ => none

/-- The registers a host may not write: `CSTAT`, `RFILL[k]`, `RDIST[k]`, `RSTAT[k]` (20_memory.md R47). -/
def Reg.readOnly : Reg → Bool
  | .cmd => false
  | .cstat => true
  | .glen => false
  | .tlen => false
  | .chan _ q =>
    match q with
    | .deg => false
    | .mask => false
    | .fill => false
    | .nreq => false
    | .thresh => false
    | .rfill => true
    | .rdist => true
    | .rstat => true

/-- The value of a channel register. -/
def ChannelRegs.get (c : ChannelRegs) : ChannelReg → Word
  | .deg => c.deg
  | .mask => c.mask
  | .fill => c.fill
  | .nreq => c.nreq
  | .thresh => c.thresh
  | .rfill => c.rfill
  | .rdist => c.rdist
  | .rstat => c.rstat

/-- A channel with one register replaced. -/
def ChannelRegs.set (c : ChannelRegs) (q : ChannelReg) (v : Word) : ChannelRegs :=
  match q with
  | .deg => { c with deg := v }
  | .mask => { c with mask := v }
  | .fill => { c with fill := v }
  | .nreq => { c with nreq := v }
  | .thresh => { c with thresh := v }
  | .rfill => { c with rfill := v }
  | .rdist => { c with rdist := v }
  | .rstat => { c with rstat := v }

/-- The value a host reads: "A read returns 0 and has no effect" for `CMD` (R22), else the register's value. -/
def State.readReg (s : State) : Reg → Word
  | .cmd => 0#32
  | .cstat => s.cstat
  | .glen => s.glen
  | .tlen => s.tlen
  | .chan k q => (s.chan k).get q

/-- A register replaced: "stores all 32 written bits unchanged and checks nothing" (R25). `CMD` holds no state (R22). The
host reaches this for RW registers only. -/
def State.writeReg (s : State) (q : Reg) (v : Word) : State :=
  match q with
  | .cmd => s
  | .cstat => { s with cstat := v }
  | .glen => { s with glen := v }
  | .tlen => { s with tlen := v }
  | .chan k q => s.setChan k ((s.chan k).set q v)

end Sys2Proof.Machine
end

