-- ==== Sys2Proof/Machine/HostAccess.lean ====
section
/-! DEFINITION. The host's operations (20_memory.md R46): one of them is one step of the machine (log 1). -/

namespace Sys2Proof.Machine

/-- The register number of CMD (10_state.md R24). -/
abbrev cmdNumber : Nat := 0

/-- "if r = CMD -> run the command word v to completion": a legal word runs its command, any other is IllegalCommand
(30_encoding.md R62, R64). -/
def runCommand (w : Word) (s : State) : Host.Outcome State Fault Refusal :=
  match decode w with
  | .ok i => exec i s
  | .error _ => .next s.raiseIllegal

/-- `RegRead(r)` (R46). -/
def State.regRead (s : State) (r : Nat) : State :=
  match Reg.ofNumber r with
  | some q => s.setReply (.word (s.readReg q))
  | none => s.setReply .busError

/-- `RegWrite(r, v)` (R46). The write to CMD "completes only when the command has finished" (R49): its answer is `done`,
whatever the outcome of the command. -/
def State.regWrite (s : State) (r : Nat) (v : Word) : Host.Outcome State Fault Refusal :=
  match Reg.ofNumber r with
  | none => .next (s.setReply .busError)
  | some .cmd => runCommand v (s.setReply .done)
  | some q => if q.readOnly then .next (s.setReply .busError) else .next ((s.writeReg q v).setReply .done)

/-- `MemRead(S, a)` (R46). -/
def State.memRead (s : State) (space addr : Nat) : State :=
  match Space.ofId space with
  | some sp => if addr < s.params.lmax then s.setReply (.bit (s.bitAt sp addr)) else s.setReply .busError
  | none => s.setReply .busError

/-- `MemWrite(S, a, b)` (R46). -/
def State.memWrite (s : State) (space addr : Nat) (b : Bool) : State :=
  match Space.ofId space with
  | some sp => if addr < s.params.lmax then (s.setBit sp addr b).setReply .done else s.setReply .busError
  | none => s.setReply .busError

/-- A host access, which happens "only while `PHASE = IDLE`" (R46). -/
def State.whenIdle (s : State) (o : Host.Outcome State Fault Refusal) : Host.Outcome State Fault Refusal :=
  if s.phase = .idle then o else .fault .hostAccessWhileRunning

/-- One host operation. "Reset may be applied at any time, including during a command" (70_reset_and_hazards.md R210). -/
def State.serve (s : State) : HostOp → Host.Outcome State Fault Refusal
  | .regRead r => s.whenIdle (.next (s.regRead r))
  | .regWrite r v => s.whenIdle (s.regWrite r v)
  | .memRead space addr => s.whenIdle (.next (s.memRead space addr))
  | .memWrite space addr b => s.whenIdle (.next (s.memWrite space addr b))
  | .reset => .next s.applyReset

/-- Serve the oldest pending host operation; with none pending the engine idles (log 1). -/
def State.serveNext (s : State) : Host.Outcome State Fault Refusal :=
  match s.pending with
  | [] => .next s
  | op :: rest => (s.setPending rest).serve op

end Sys2Proof.Machine
end

