-- ==== Sys2Proof/Machine/Step.lean ====
section
/-! DEFINITION. The step: "There is one stream of events: the host's operations in issue order" (20_memory.md R49). -/

namespace Sys2Proof.Machine

/-- One step serves one host operation. -/
def step (s : State) : Host.Outcome State Fault Refusal := s.serveNext

/-- The state whose next step runs the command word: the host's next operation is `RegWrite(CMD, word)`, and the
sequencer is idle, as a host operation needs (log 1). -/
def State.withFetchWord (s : State) (nbits w : Nat) : State :=
  (s.setPending (.regWrite cmdNumber (tableWord nbits w) :: s.pending)).setPhase .idle

end Sys2Proof.Machine
end

