-- ==== Sys2Proof/Safety.lean ====
section
/-! DEFINITION. What counts as a safe run, in the terms the statements use. -/

namespace Sys2Proof.Machine

/-- The machine goes on: no fault and no refusal. -/
def GoesOn (o : Host.Outcome State Fault Refusal) : Prop := ∃ t, o = .next t

/-- What CSTAT may hold (10_state.md R23, 60_exceptions.md R180): bits [31:6] zero; a code 0 to 5; CH is 0 when the code
is NONE, OK or ILLEGAL_COMMAND, and a channel when it is RECOVERY_FAILURE or DEGENERATE_STATE. -/
def CstatLegal (w : Word) : Prop :=
  w.extractLsb' 6 26 = 0#26 ∧
  (w.extractLsb' 0 4 = 0#4 ∨ w.extractLsb' 0 4 = 1#4 ∨ w.extractLsb' 0 4 = 2#4 ∨ w.extractLsb' 0 4 = 3#4 ∨
    w.extractLsb' 0 4 = 4#4 ∨ w.extractLsb' 0 4 = 5#4) ∧
  (w.extractLsb' 0 4 = 0#4 ∨ w.extractLsb' 0 4 = 1#4 ∨ w.extractLsb' 0 4 = 5#4 → w.extractLsb' 4 2 = 0#2) ∧
  (w.extractLsb' 0 4 = 2#4 ∨ w.extractLsb' 0 4 = 4#4 → w.extractLsb' 4 2 ≠ 0#2)

/-- What RSTAT[k] may hold: NONE, OK, RECOVERY_FAILURE or INVALID_PARAMETER, bits [31:4] zero (R19, R180). -/
def RstatLegal (w : Word) : Prop := w = 0#32 ∨ w = 1#32 ∨ w = 2#32 ∨ w = 3#32

/-- The result registers of a channel agree with its status: a nonzero fill and a distance below DIST_NONE exactly when
RSTAT[k] is OK, else 0 and DIST_NONE (R17, R18). -/
def ResultCoherent (c : ChannelRegs) : Prop :=
  (c.rstat = 1#32 ∧ c.rfill ≠ 0#32 ∧ c.rdist ≠ 0xFFFFFFFF#32) ∨
  (c.rstat ≠ 1#32 ∧ c.rfill = 0#32 ∧ c.rdist = 0xFFFFFFFF#32)

/-- A memory is in canonical form and lists no element beyond the capacity (R26). -/
def MemoryLegal (lmax : Nat) (m : BitMemory) : Prop := m.wf ∧ ∀ c ∈ m, c.1 < lmax

/-- The invariant of the engine between two host operations. -/
structure State.Invariant (s : State) : Prop where
  /-- DMAX and LMAX are values R4 and R5 admit. -/
  params : s.params.Legal
  /-- "Between commands `PHASE = IDLE`" (R28). -/
  phase : s.phase = .idle
  /-- CSTAT holds an outcome. -/
  cstat : CstatLegal s.cstat
  /-- Every RSTAT[k] holds an outcome of a search. -/
  rstat : ∀ k, RstatLegal (s.chan k).rstat
  /-- Every channel's results agree with its status. -/
  results : ∀ k, ResultCoherent (s.chan k)
  /-- The five memories are in canonical form, within their capacity. -/
  memories : ∀ sp, MemoryLegal s.params.lmax (s.mem sp)

/-! ### The words the statements use

They are written from the spec's rules, not from the meanings: the statements say that the meanings agree with them. -/

/-- The number of a channel. -/
def channelNumber : Channel → Nat
  | .c1 => 1
  | .c2 => 2
  | .c3 => 3

/-- A status word from its code and channel, `CODE | CH << 4` (95_test_vectors.md). -/
def statusWord (code ch : Nat) : Word := BitVec.ofNat 32 (code + 16 * ch)

/-- The ten legal command words of 30_encoding.md R62. -/
def legalWords : List Word :=
  [0x00000011#32, 0x00000021#32, 0x00000031#32, 0x00000002#32, 0x00000013#32, 0x00000023#32, 0x00000033#32,
    0x00000004#32, 0x00000005#32, 0x00000006#32]

/-- The output sequence from the state `f`: `g[t] = (lfsr_step^t(f))[0]` (40_lfsr_generate.md R82). -/
def seqBit (n : Nat) (m f : Word) (t : Nat) : Bool := ((lfsrStep n m)^[t] f).getLsbD 0

/-- The degree and mask of channel `k` are legal (60_exceptions.md R182). -/
def LfsrLegal (s : State) (k : Channel) : Prop :=
  2 ≤ (s.chan k).deg.toNat ∧ (s.chan k).deg.toNat ≤ s.params.dmax ∧
    0 < (s.chan k).mask.toNat ∧ (s.chan k).mask.toNat < 2 ^ (s.chan k).deg.toNat

/-- The parameters of `GEN k` are legal (R182), the seed apart. -/
def GenerateLegal (s : State) (k : Channel) : Prop :=
  LfsrLegal s k ∧ s.glen.toNat ≤ s.params.lmax ∧ (s.chan k).fill.toNat < 2 ^ (s.chan k).deg.toNat

/-- The parameters of a correlation search on channel `k` are legal (R182). -/
def CorrelateLegal (s : State) (k : Channel) : Prop :=
  LfsrLegal s k ∧ 1 ≤ s.tlen.toNat ∧ s.tlen.toNat ≤ s.params.lmax ∧
    1 ≤ (s.chan k).nreq.toNat ∧ (s.chan k).nreq.toNat ≤ s.tlen.toNat

/-- The parameters of the consistency search are legal (R182). -/
def SelectLegal (s : State) : Prop := LfsrLegal s .c3 ∧ 1 ≤ s.tlen.toNat ∧ s.tlen.toNat ≤ s.params.lmax

/-- The parameters of `RECOVER` on channel `k` are legal: not `bad[k]` of 44_recover_pipeline.md R161. -/
def RecoverLegal (s : State) : Channel → Prop
  | .c1 => CorrelateLegal s .c1
  | .c2 => CorrelateLegal s .c2
  | .c3 => SelectLegal s

/-- The state of candidate `j` of a search on channel `k` (42_correlation_search.md R113). -/
def candidate (s : State) (k : Channel) (j : Nat) : Word := runState (s.chan k).deg.toNat (s.chan k).mask j

/-- `hd(n, m, j, Nq)` of candidate `j` (R114). -/
def distance (s : State) (k : Channel) (j : Nat) : Nat :=
  ∑ i ∈ Finset.range (s.chan k).nreq.toNat,
    if runBit (s.chan k).deg.toNat (s.chan k).mask (j + i) = s.bitAt .tgt i then 0 else 1

/-- Candidate `j` may be accepted: its state is not 0 and its distance is below the threshold (R115). -/
def Acceptable (s : State) (k : Channel) (j : Nat) : Prop :=
  candidate s k j ≠ 0#32 ∧ distance s k j < (s.chan k).thresh.toNat

/-- "the winner is the candidate of *lowest index* among those attaining the minimum distance, provided that minimum is
below `C`" (R115). -/
def Winner (s : State) (k : Channel) (j : Nat) : Prop :=
  j < 2 ^ (s.chan k).deg.toNat ∧ Acceptable s k j ∧
    ∀ i, i < 2 ^ (s.chan k).deg.toNat → Acceptable s k i →
      distance s k j < distance s k i ∨ (distance s k j = distance s k i ∧ j ≤ i)

/-- Candidate `j` of channel 3 is consistent with the target, given the X and Y sequences: its state is not 0 and the
combiner with its window as selector gives every target bit (43_consistency_search.md R142). -/
def Consistent (s : State) (x y : Nat → Bool) (j : Nat) : Prop :=
  candidate s .c3 j ≠ 0#32 ∧
    ∀ i, i < s.tlen.toNat →
      (if runBit (s.chan .c3).deg.toNat (s.chan .c3).mask (j + i) then x i else y i) = s.bitAt .tgt i

/-- "The first candidate (in generation order) passing all `N` checks" (R143). -/
def FirstConsistent (s : State) (x y : Nat → Bool) (j : Nat) : Prop :=
  j < 2 ^ (s.chan .c3).deg.toNat ∧ Consistent s x y j ∧ ∀ i, i < j → ¬ Consistent s x y i

/-- What the host's side and the parameters are: no command touches them. -/
def SameHostSide (s t : State) : Prop :=
  t.params = s.params ∧ t.memEpoch = s.memEpoch ∧ t.pending = s.pending ∧ t.reply = s.reply

/-- The registers a host configures, but FILL: no command writes them. -/
def SameConfiguration (s t : State) : Prop :=
  t.glen = s.glen ∧ t.tlen = s.tlen ∧
    ∀ k, (t.chan k).deg = (s.chan k).deg ∧ (t.chan k).mask = (s.chan k).mask ∧ (t.chan k).nreq = (s.chan k).nreq ∧
      (t.chan k).thresh = (s.chan k).thresh

/-- Two states agree on the architectural state of 10_state.md R10: every register and every memory element. -/
def SameArchitecture (s t : State) : Prop :=
  (∀ k, t.chan k = s.chan k) ∧ t.glen = s.glen ∧ t.tlen = s.tlen ∧ t.cstat = s.cstat ∧
    ∀ sp a, t.bitAt sp a = s.bitAt sp a

/-- The register map of 10_state.md R24: every mapped number with the value a host reads there. -/
def registerTable (s : State) : List (Nat × Word) :=
  [(0x00, 0#32), (0x01, s.cstat), (0x02, s.glen), (0x03, s.tlen),
    (0x10, s.ch1.deg), (0x11, s.ch1.mask), (0x12, s.ch1.fill), (0x13, s.ch1.nreq), (0x14, s.ch1.thresh),
    (0x15, s.ch1.rfill), (0x16, s.ch1.rdist), (0x17, s.ch1.rstat),
    (0x20, s.ch2.deg), (0x21, s.ch2.mask), (0x22, s.ch2.fill), (0x23, s.ch2.nreq), (0x24, s.ch2.thresh),
    (0x25, s.ch2.rfill), (0x26, s.ch2.rdist), (0x27, s.ch2.rstat),
    (0x30, s.ch3.deg), (0x31, s.ch3.mask), (0x32, s.ch3.fill), (0x33, s.ch3.nreq), (0x34, s.ch3.thresh),
    (0x35, s.ch3.rfill), (0x36, s.ch3.rdist), (0x37, s.ch3.rstat)]

/-- The numbers of the RW registers of R24. -/
def writableNumbers : List Nat :=
  [0x02, 0x03, 0x10, 0x11, 0x12, 0x13, 0x14, 0x20, 0x21, 0x22, 0x23, 0x24, 0x30, 0x31, 0x32, 0x33, 0x34]

/-- The elements a command may write (20_memory.md R52). -/
def MayWrite (i : Instr) (s : State) (sp : Space) (a : Nat) : Prop :=
  (∃ k : Channel, i = .gen k.field ∧ sp = .seq k ∧ a < s.glen.toNat) ∨
  (i = .comb ∧ sp = .out ∧ a < s.glen.toNat) ∨
  (i = .recover ∧ sp ≠ .tgt ∧ a < s.tlen.toNat)

/-- Two states agree on everything a command reads: the operand lists of 40_lfsr_generate.md R83, 41_geffe_combine.md
R102, 42_correlation_search.md R117 and R119, 43_consistency_search.md R145, 44_recover_pipeline.md R161. -/
def SameOperands (i : Instr) (s t : State) : Prop :=
  s.params = t.params ∧
  match i with
  | .gen ch =>
    s.glen = t.glen ∧
      ∀ k : Channel, ch = k.field →
        (s.chan k).deg = (t.chan k).deg ∧ (s.chan k).mask = (t.chan k).mask ∧ (s.chan k).fill = (t.chan k).fill
  | .comb => s.glen = t.glen ∧ ∀ k a, a < s.glen.toNat → s.bitAt (.seq k) a = t.bitAt (.seq k) a
  | .corr ch =>
    s.tlen = t.tlen ∧
      ∀ k : Channel, ch = k.field →
        (s.chan k).deg = (t.chan k).deg ∧ (s.chan k).mask = (t.chan k).mask ∧ (s.chan k).nreq = (t.chan k).nreq ∧
          (s.chan k).thresh = (t.chan k).thresh ∧
          ∀ a, a < (s.chan k).nreq.toNat → s.bitAt .tgt a = t.bitAt .tgt a
  | .corr2 =>
    s.tlen = t.tlen ∧
      ∀ k : Channel, k ≠ .c3 →
        (s.chan k).deg = (t.chan k).deg ∧ (s.chan k).mask = (t.chan k).mask ∧ (s.chan k).nreq = (t.chan k).nreq ∧
          (s.chan k).thresh = (t.chan k).thresh ∧
          ∀ a, a < (s.chan k).nreq.toNat → s.bitAt .tgt a = t.bitAt .tgt a
  | .fsel =>
    s.tlen = t.tlen ∧ s.ch3.deg = t.ch3.deg ∧ s.ch3.mask = t.ch3.mask ∧
      ∀ sp a, sp = .tgt ∨ sp = .seq .c1 ∨ sp = .seq .c2 → a < s.tlen.toNat → s.bitAt sp a = t.bitAt sp a
  | .recover =>
    s.tlen = t.tlen ∧ (∀ k : Channel, (s.chan k).deg = (t.chan k).deg ∧ (s.chan k).mask = (t.chan k).mask) ∧
      (∀ k : Channel, k ≠ .c3 → (s.chan k).nreq = (t.chan k).nreq ∧ (s.chan k).thresh = (t.chan k).thresh) ∧
      ∀ a, a < s.tlen.toNat → s.bitAt .tgt a = t.bitAt .tgt a

/-- Two channels agree on their result registers. -/
def SameResult (c d : ChannelRegs) : Prop := c.rfill = d.rfill ∧ c.rdist = d.rdist ∧ c.rstat = d.rstat

/-- Two states that a command left agree on everything it wrote; `s` is a state it started from. A `RECOVER` that ended with
RECOVERY_FAILURE blamed on channel 3 stopped after stage 3, and had written FILL and SEQ of channels 1 and 2
(44_recover_pipeline.md R163). -/
def SameWritten (i : Instr) (s t u : State) : Prop :=
  t.cstat = u.cstat ∧
  match i with
  | .gen ch =>
    ∀ k : Channel, ch = k.field → (t.chan k).fill = (u.chan k).fill ∧
      (t.cstat = statusWord 1 0 → ∀ a, a < s.glen.toNat → t.bitAt (.seq k) a = u.bitAt (.seq k) a)
  | .comb => t.cstat = statusWord 1 0 → ∀ a, a < s.glen.toNat → t.bitAt .out a = u.bitAt .out a
  | .corr ch => ∀ k : Channel, ch = k.field → SameResult (t.chan k) (u.chan k)
  | .corr2 => SameResult t.ch1 u.ch1 ∧ SameResult t.ch2 u.ch2
  | .fsel => SameResult t.ch3 u.ch3
  | .recover =>
    (∀ k, SameResult (t.chan k) (u.chan k)) ∧
      (t.cstat = statusWord 1 0 →
        (∀ k, (t.chan k).fill = (u.chan k).fill) ∧
          ∀ sp a, sp ≠ .tgt → a < s.tlen.toNat → t.bitAt sp a = u.bitAt sp a) ∧
      (t.cstat = statusWord 2 3 →
        ∀ k : Channel, k ≠ .c3 →
          (t.chan k).fill = (u.chan k).fill ∧
            ∀ a, a < s.tlen.toNat → t.bitAt (.seq k) a = u.bitAt (.seq k) a)

/-- A command, and, if it ended OK, what the host does next: "stopping at the first command whose `CSTAT.CODE` is not
`OK`" (44_recover_pipeline.md R166). -/
def stageThen (i : Instr) (next : State → Host.Outcome State Fault Refusal) (s : State) :
    Host.Outcome State Fault Refusal :=
  match exec i s with
  | .next t => if t.cstat.extractLsb' 0 4 = 1#4 then next t else .next t
  | .fault r => .fault r
  | .refused r => .refused r

/-- The host's stages of R166: `CORR2`; `WR FILL[1], RFILL[1]`; `WR FILL[2], RFILL[2]`; `WR GLEN, TLEN`; `GEN 1`; `GEN 2`;
`FSEL`; `WR FILL[3], RFILL[3]`; `GEN 3`; `COMB`. -/
def hostStages (s : State) : Host.Outcome State Fault Refusal :=
  s |> stageThen .corr2 fun s1 =>
    { s1 with
      ch1 := { s1.ch1 with fill := s1.ch1.rfill }
      ch2 := { s1.ch2 with fill := s1.ch2.rfill }
      glen := s1.tlen } |>
    stageThen (.gen 1#2) (stageThen (.gen 2#2) (stageThen .fsel fun s2 =>
      { s2 with ch3 := { s2.ch3 with fill := s2.ch3.rfill } } |>
      stageThen (.gen 3#2) (exec .comb)))

end Sys2Proof.Machine
end

