-- ==== Sys2Proof/Certificates/Slice0/Obligations.lean ====
section
/-! DEFINITION. The statements for the provers. -/

open Sys2Proof Sys2Proof.Machine

/-! ### Encoding and decoding -/

/-- The ten command words of 30_encoding.md R62 decode to their commands. -/
def Obligations.LegalWordsDecodeToTheirCommands : Prop :=
  decode 0x00000011#32 = .ok (.gen 1#2) ∧ decode 0x00000021#32 = .ok (.gen 2#2) ∧
  decode 0x00000031#32 = .ok (.gen 3#2) ∧ decode 0x00000002#32 = .ok .comb ∧
  decode 0x00000013#32 = .ok (.corr 1#2) ∧ decode 0x00000023#32 = .ok (.corr 2#2) ∧
  decode 0x00000033#32 = .ok (.corr 3#2) ∧ decode 0x00000004#32 = .ok .corr2 ∧
  decode 0x00000005#32 = .ok .fsel ∧ decode 0x00000006#32 = .ok .recover

/-- A word decodes to a command exactly when the command is well-formed and the word encodes it. -/
def Obligations.DecodeIffWellFormedAndEncoded : Prop :=
  ∀ (w : Word) (i : Instr), decode w = .ok i ↔ i.WellFormed ∧ encode i = w

/-- "These ten words are the only legal command words" (30_encoding.md R62). -/
def Obligations.OnlyTenWordsAreLegal : Prop :=
  ∀ w : Word, (∃ i, decode w = .ok i) ↔ w ∈ legalWords

/-- A pending write of a legal word to CMD makes the step run the decoded command, on the state without that operation
and with the answer `done`; and the step after `withFetchWord` runs the word it was given. That the host's operations stand
in `pending` and their answers in `reply` is the model's choice (logs 1 and 2). -/
def Obligations.StepRunsTheDecodedCommand : Prop :=
  (∀ (s : State) (rest : List HostOp) (w : Word) (i : Instr), s.phase = .idle →
    s.pending = .regWrite 0 w :: rest → decode w = .ok i →
    step s = exec i { s with pending := rest, reply := .done }) ∧
  (∀ (s : State) (w : Word) (i : Instr), decode w = .ok i →
    step (s.withFetchWord 32 w.toNat) = exec i { s with phase := .idle, reply := .done })

/-- A word written to CMD that is not one of the ten sets CSTAT to ILLEGAL_COMMAND with CH = 0 and changes no other state
of the engine (30_encoding.md R64, 60_exceptions.md R184). The fields `pending` and `reply` are the model's (logs 1, 2). -/
def Obligations.IllegalWordWritesOnlyCstat : Prop :=
  ∀ (s : State) (rest : List HostOp) (w : Word), w ∉ legalWords → s.phase = .idle →
    s.pending = .regWrite 0 w :: rest →
    step s = .next { s with pending := rest, reply := .done, cstat := statusWord 5 0 }

/-- GEN and CORR with CH = 0, which no legal word stands for, end with ILLEGAL_COMMAND and change nothing else. What these
terms do is the model's choice (log 13): 30_encoding.md R64 and 60_exceptions.md R184 speak of command words only, and no
legal word decodes to them. -/
def Obligations.ChannelZeroIsIllegal : Prop :=
  ∀ s : State, exec (.gen 0#2) s = .next { s with cstat := statusWord 5 0, phase := .idle } ∧
    exec (.corr 0#2) s = .next { s with cstat := statusWord 5 0, phase := .idle }

/-! ### The LFSR -/

/-- One step shifts right, sets bit n - 1 to the parity of the tapped bits, and sets no bit above
(40_lfsr_generate.md R80). -/
def Obligations.LfsrStepShiftsAndFeedsParity : Prop :=
  ∀ (n : Nat) (m f : Word), 2 ≤ n → n ≤ 32 → m.toNat < 2 ^ n → f.toNat < 2 ^ n →
    (∀ i, i < n - 1 → (lfsrStep n m f).getLsbD i = f.getLsbD (i + 1)) ∧
    ((lfsrStep n m f).getLsbD (n - 1) = true ↔
      (∑ i ∈ Finset.range 32, if (f &&& m).getLsbD i = true then 1 else 0) % 2 = 1) ∧
    ∀ i, n ≤ i → (lfsrStep n m f).getLsbD i = false

/-- The step keeps states within n bits and fixes 0; with m[0] = 1 it is a bijection on n-bit states, the old bit 0 can be
recovered, the other old bits are the new state shifted left, and a nonzero state never steps to zero; with m[0] = 0 it is
not injective, and the nonzero state 1 steps to zero (40_lfsr_generate.md R85). -/
def Obligations.LfsrStepWidthZeroAndBijection : Prop :=
  (∀ (n : Nat) (m : Word), 2 ≤ n → n ≤ 32 → 0 < m.toNat → m.toNat < 2 ^ n →
    (∀ f : Word, f.toNat < 2 ^ n → (lfsrStep n m f).toNat < 2 ^ n) ∧
    lfsrStep n m 0#32 = 0#32 ∧
    (m.getLsbD 0 = true →
      (∀ g : Word, g.toNat < 2 ^ n → ∃! f : Word, f.toNat < 2 ^ n ∧ lfsrStep n m f = g) ∧
      (∀ f : Word, f.toNat < 2 ^ n → f.getLsbD 0 =
        ((lfsrStep n m f).getLsbD (n - 1) ^^
          parity (((lfsrStep n m f) <<< 1) &&& m &&& BitVec.ofNat 32 (2 ^ n - 1)))) ∧
      (∀ f : Word, f.toNat < 2 ^ n → ∀ i, 0 < i → i < n → f.getLsbD i = ((lfsrStep n m f) <<< 1).getLsbD i) ∧
      ∀ f : Word, f.toNat < 2 ^ n → f ≠ 0#32 → lfsrStep n m f ≠ 0#32) ∧
    (m.getLsbD 0 = false →
      (∃ f g : Word, f ≠ g ∧ f.toNat < 2 ^ n ∧ g.toNat < 2 ^ n ∧ lfsrStep n m f = lfsrStep n m g) ∧
      lfsrStep n m 1#32 = 0#32)) ∧
  lfsrStep 3 0b110#32 1#32 = 0#32

/-- Generation gives the first bits of the output sequence and the state after as many steps (40_lfsr_generate.md R82). -/
def Obligations.GenerationIteratesTheStep : Prop :=
  ∀ (n : Nat) (m f : Word) (len : Nat),
    (lfsrGen n m f len).1.length = len ∧
    (∀ t, t < len → (lfsrGen n m f len).1[t]? = some (seqBit n m f t)) ∧
    (lfsrGen n m f len).2 = (lfsrStep n m)^[len] f

/-- Bit i of the state after t steps is the output bit t + i, for every mask (40_lfsr_generate.md R87). -/
def Obligations.WindowOfOutputIsTheState : Prop :=
  ∀ (n : Nat) (m f : Word), 2 ≤ n → n ≤ 32 → m.toNat < 2 ^ n → f.toNat < 2 ^ n →
    ∀ t, (∀ i, i < n → ((lfsrStep n m)^[t] f).getLsbD i = seqBit n m f (t + i)) ∧
      ((lfsrStep n m)^[t] f).toNat = ∑ i ∈ Finset.range n, (seqBit n m f (t + i)).toNat * 2 ^ i

/-- The output sequence satisfies the recurrence of the mask, for every mask (40_lfsr_generate.md R86). -/
def Obligations.OutputSatisfiesTheRecurrence : Prop :=
  ∀ (n : Nat) (m f : Word), 2 ≤ n → n ≤ 32 → m.toNat < 2 ^ n → f.toNat < 2 ^ n →
    ∀ t, (seqBit n m f (t + n)).toNat =
      (∑ i ∈ Finset.range n, if m.getLsbD i = true then (seqBit n m f (t + i)).toNat else 0) % 2

/-- A mask whose run from 1 visits every nonzero state gives, from every nonzero seed, a sequence of period exactly
2^n - 1 (40_lfsr_generate.md R88, with the coverage of 42_correlation_search.md R124 as the meaning of primitive). -/
def Obligations.CoveringMaskHasFullPeriod : Prop :=
  ∀ (n : Nat) (m : Word), 2 ≤ n → n ≤ 32 → 0 < m.toNat → m.toNat < 2 ^ n →
    (∀ f : Word, f ≠ 0#32 → f.toNat < 2 ^ n → ∃ j, j < 2 ^ n - 1 ∧ runState n m j = f) →
    ∀ f : Word, f ≠ 0#32 → f.toNat < 2 ^ n →
      (lfsrStep n m)^[2 ^ n - 1] f = f ∧
      (∀ i, seqBit n m f i = seqBit n m f (i % (2 ^ n - 1))) ∧
      ∀ p, 0 < p → p < 2 ^ n - 1 → ∃ i, seqBit n m f (i + p) ≠ seqBit n m f i

/-- The example masks of 40_lfsr_generate.md R91: from state 1 the run first returns to 1 after 2^n - 1 steps for all nine,
and after 6, 5 and 4 steps for the three counter-examples. -/
def Obligations.ExampleMasksHaveTheirPeriods : Prop :=
  ∀ e ∈ [(2, 0b11#32, 3), (3, 0b011#32, 7), (3, 0b101#32, 7), (4, 0b0011#32, 15), (4, 0b1001#32, 15),
      (5, 0b00101#32, 31), (5, 0b01001#32, 31), (6, 0b000011#32, 63), (7, 0b0000011#32, 127), (4, 0b0101#32, 6), (4, 0b1111#32, 5), (3, 0b111#32, 4)],
    runState e.1 e.2.1 e.2.2 = 1#32 ∧ ∀ j, j < e.2.2 → 0 < j → runState e.1 e.2.1 j ≠ 1#32

/-! ### GEN -/

/-- GEN k with legal parameters and a nonzero seed answers a next state: SEQ[k] holds the output sequence up to GLEN,
FILL[k] the state after GLEN steps, CSTAT is OK, and nothing else changes (40_lfsr_generate.md R83). -/
def Obligations.GenerateWritesSequenceAndFill : Prop :=
  ∀ (k : Channel) (s : State), GenerateLegal s k → (s.chan k).fill ≠ 0#32 →
    ∃ t, exec (.gen k.field) s = .next t ∧
      (∀ sp a, t.bitAt sp a =
        if sp = .seq k ∧ a < s.glen.toNat then
          seqBit (s.chan k).deg.toNat (s.chan k).mask (s.chan k).fill a
        else s.bitAt sp a) ∧
      t.chan k = { s.chan k with
        fill := (lfsrStep (s.chan k).deg.toNat (s.chan k).mask)^[s.glen.toNat] (s.chan k).fill } ∧
      (∀ j, j ≠ k → t.chan j = s.chan j) ∧
      t = { s with
        ch1 := t.ch1, ch2 := t.ch2, ch3 := t.ch3, seq1 := t.seq1, seq2 := t.seq2, seq3 := t.seq3
        cstat := statusWord 1 0, phase := .idle }

/-- GEN k with an illegal parameter ends with INVALID_PARAMETER, else with a zero seed with DEGENERATE_STATE, blamed on k;
nothing else changes (60_exceptions.md R182, R183, R186). -/
def Obligations.GenerateErrorsWriteOnlyCstat : Prop :=
  ∀ (k : Channel) (s : State),
    (¬ GenerateLegal s k →
      exec (.gen k.field) s = .next { s with cstat := statusWord 3 (channelNumber k), phase := .idle }) ∧
    (GenerateLegal s k → (s.chan k).fill = 0#32 →
      exec (.gen k.field) s = .next { s with cstat := statusWord 4 (channelNumber k), phase := .idle })

/-- With bit 0 of the mask set, GEN k leaves a nonzero fill, and a second GEN k without a host write continues the sequence:
elements GLEN to 2*GLEN - 1 of one long generation (40_lfsr_generate.md R83). -/
def Obligations.SecondGenerateContinues : Prop :=
  ∀ (k : Channel) (s : State), s.params.Legal → GenerateLegal s k → (s.chan k).fill ≠ 0#32 →
    (s.chan k).mask.getLsbD 0 = true →
    ∃ t u, exec (.gen k.field) s = .next t ∧ exec (.gen k.field) t = .next u ∧
      (t.chan k).fill ≠ 0#32 ∧ u.cstat = statusWord 1 0 ∧
      (∀ a, a < s.glen.toNat →
        u.bitAt (.seq k) a =
          seqBit (s.chan k).deg.toNat (s.chan k).mask (s.chan k).fill (s.glen.toNat + a)) ∧
      (u.chan k).fill =
        (lfsrStep (s.chan k).deg.toNat (s.chan k).mask)^[2 * s.glen.toNat] (s.chan k).fill

/-! ### The combiner and COMB -/

/-- The two forms of the combiner agree: selector 1 picks X, selector 0 picks Y (41_geffe_combine.md R100, R101). -/
def Obligations.CombinerFormsAgree : Prop :=
  ∀ x y z : Bool, geffeBool x y z = geffe x y z ∧ geffe x y true = x ∧ geffe x y false = y

/-- COMB with a legal length writes the combination of the three sequences to OUT up to GLEN and changes nothing else but
CSTAT; with a length above LMAX it ends with INVALID_PARAMETER and CH = 0 and changes nothing else
(41_geffe_combine.md R102). -/
def Obligations.CombineWritesOut : Prop :=
  ∀ s : State,
    (s.glen.toNat ≤ s.params.lmax →
      ∃ t, exec .comb s = .next t ∧
        (∀ sp a, t.bitAt sp a =
          if sp = .out ∧ a < s.glen.toNat then
            (if s.bitAt (.seq .c3) a then s.bitAt (.seq .c1) a else s.bitAt (.seq .c2) a)
          else s.bitAt sp a) ∧
        t = { s with out := t.out, cstat := statusWord 1 0, phase := .idle }) ∧
    (s.params.lmax < s.glen.toNat →
      exec .comb s = .next { s with cstat := statusWord 3 0, phase := .idle })

/-! ### The correlation search -/

/-- "every bit a search reads ... is the true bit of the run from fill 1 at that index" (42_correlation_search.md R121). -/
def Obligations.RunBufferHoldsTrueRunBits : Prop :=
  ∀ (n : Nat) (m : Word) (len t : Nat), t < 2 ^ n + max len n →
    (runBuffer n m len)[t]? = some (runBit n m t)

/-- After j sequencer steps of a search, J is the index of the candidate being scored, which stops at 2^n - 1 and never wraps
(10_state.md R28), and the candidate tracked by the successor relation is the register's true state after as many steps,
for every mask (42_correlation_search.md R113). -/
def Obligations.TrackedCandidateIsTheRunState : Prop :=
  ∀ (s : State) (k : Channel) (x : CorrInput) (u : SearchUnit) (j : Nat), s.params.Legal → s.corrInput k = some x →
    j ≤ 2 ^ (s.chan k).deg.toNat →
    ((corrStep x)^[j] u.start).j.toNat = min j (2 ^ (s.chan k).deg.toNat - 1) ∧
      ((corrStep x)^[j] u.start).cand = candidate s k j

/-- The Hamming-distance unit computes hd, the sum of run_bit(n, m, j + i) xor TGT[i], which is at most N_req
(42_correlation_search.md R114). -/
def Obligations.HammingUnitComputesDistance : Prop :=
  ∀ (s : State) (k : Channel) (x : CorrInput) (j : Nat), s.corrInput k = some x →
    j < 2 ^ (s.chan k).deg.toNat →
    hammingDistance (window x.run j x.nreq) x.target = distance s k j ∧ distance s k j ≤ (s.chan k).nreq.toNat

/-- CORR k with legal parameters answers a next state. If a candidate is the winner of R115, its state and distance are the
result and the outcome is OK; if no candidate is acceptable, the result is 0 and DIST_NONE and the outcome
RECOVERY_FAILURE blamed on k. Nothing else changes but unit A (42_correlation_search.md R115 to R117). -/
def Obligations.CorrelateFindsTheWinner : Prop :=
  ∀ (k : Channel) (s : State), s.params.Legal → CorrelateLegal s k →
    ∃ t, exec (.corr k.field) s = .next t ∧
      (∀ j, Winner s k j →
        t.chan k = { s.chan k with
          rfill := candidate s k j, rdist := BitVec.ofNat 32 (distance s k j), rstat := 1#32 } ∧
        t.cstat = statusWord 1 0) ∧
      ((∀ j, j < 2 ^ (s.chan k).deg.toNat → ¬ Acceptable s k j) →
        t.chan k = { s.chan k with rfill := 0#32, rdist := 0xFFFFFFFF#32, rstat := 2#32 } ∧
        t.cstat = statusWord 2 (channelNumber k)) ∧
      (∀ j, j ≠ k → t.chan j = s.chan j) ∧
      (∀ sp a, t.bitAt sp a = s.bitAt sp a) ∧
      t = { s with
        ch1 := t.ch1, ch2 := t.ch2, ch3 := t.ch3, cstat := t.cstat, unitA := t.unitA, phase := .idle }

/-- CORR k with an illegal parameter clears the channel's result, reports INVALID_PARAMETER in RSTAT[k] and, blamed on k,
in CSTAT, and changes nothing else (42_correlation_search.md R117, 60_exceptions.md R186). -/
def Obligations.CorrelateRejectsIllegalParameters : Prop :=
  ∀ (k : Channel) (s : State), ¬ CorrelateLegal s k →
    ∃ t, exec (.corr k.field) s = .next t ∧
      t.chan k = { s.chan k with rfill := 0#32, rdist := 0xFFFFFFFF#32, rstat := 3#32 } ∧
      (∀ j, j ≠ k → t.chan j = s.chan j) ∧
      t = { s with
        ch1 := t.ch1, ch2 := t.ch2, ch3 := t.ch3, cstat := statusWord 3 (channelNumber k), phase := .idle }

/-- "`C = 0` accepts nothing": with threshold 0 a correlation search with legal parameters ends with RECOVERY_FAILURE
(42_correlation_search.md R115). -/
def Obligations.ZeroThresholdAlwaysFails : Prop :=
  ∀ (k : Channel) (s : State), CorrelateLegal s k → (s.chan k).thresh = 0#32 →
    ∃ t, exec (.corr k.field) s = .next t ∧ t.cstat = statusWord 2 (channelNumber k) ∧
      t.chan k = { s.chan k with rfill := 0#32, rdist := 0xFFFFFFFF#32, rstat := 2#32 }

/-- For every legal degree and mask the last candidate's state equals an earlier one (42_correlation_search.md R120). -/
def Obligations.LastCandidateRepeatsAnEarlierOne : Prop :=
  ∀ (n : Nat) (m : Word), 2 ≤ n → n ≤ 32 → 0 < m.toNat → m.toNat < 2 ^ n →
    ∃ j, j < 2 ^ n - 1 ∧ runState n m (2 ^ n - 1) = runState n m j

/-- "a search over `j = 0 .. 2^n - 2` gives the same result as the search of rule R117" (42_correlation_search.md R120). -/
def Obligations.ScanWithoutLastCandidateAgrees : Prop :=
  ∀ (s : State) (k : Channel) (x : CorrInput) (u : SearchUnit), s.params.Legal → s.corrInput k = some x →
    ((corrStep x)^[2 ^ x.n - 1] u.start).bests = (corrScan x u.start).bests ∧
    ((corrStep x)^[2 ^ x.n - 1] u.start).bestr = (corrScan x u.start).bestr

/-! ### CORR2 -/

/-- CORR2 answers a next state: channels 1 and 2 as CORR 1 and CORR 2 would each leave them, CSTAT that of the first of the
two that failed, else OK; channel 3, the memories and the configuration unchanged (42_correlation_search.md R119). -/
def Obligations.DualSearchGivesBothResults : Prop :=
  ∀ s : State, ∃ t1 t2 t, exec (.corr 1#2) s = .next t1 ∧ exec (.corr 2#2) s = .next t2 ∧ exec .corr2 s = .next t ∧
    t.ch1 = t1.ch1 ∧ t.ch2 = t2.ch2 ∧
    t.cstat = (if t1.ch1.rstat ≠ 1#32 then t1.cstat else if t2.ch2.rstat ≠ 1#32 then t2.cstat else statusWord 1 0) ∧
    (∀ sp a, t.bitAt sp a = s.bitAt sp a) ∧
    t = { s with
      ch1 := t.ch1, ch2 := t.ch2, cstat := t.cstat, unitA := t.unitA, unitB := t.unitB, phase := .idle }

/-- CORR2 with legal parameters and a winner on both channels ends OK with both winners' states and distances; nothing else
changes but the search units (42_correlation_search.md R115 to R119). -/
def Obligations.DualSearchFindsBothWinners : Prop :=
  ∀ (s : State) (j1 j2 : Nat), s.params.Legal → CorrelateLegal s .c1 → CorrelateLegal s .c2 →
    Winner s .c1 j1 → Winner s .c2 j2 →
    ∃ t, exec .corr2 s = .next t ∧ t.cstat = statusWord 1 0 ∧
      t.ch1 = { s.ch1 with
        rfill := candidate s .c1 j1, rdist := BitVec.ofNat 32 (distance s .c1 j1), rstat := 1#32 } ∧
      t.ch2 = { s.ch2 with
        rfill := candidate s .c2 j2, rdist := BitVec.ofNat 32 (distance s .c2 j2), rstat := 1#32 } ∧
      (∀ sp a, t.bitAt sp a = s.bitAt sp a) ∧
      t = { s with
        ch1 := t.ch1, ch2 := t.ch2, cstat := t.cstat, unitA := t.unitA, unitB := t.unitB, phase := .idle }

/-- CORR2 leaves what CORR 1 then CORR 2, or CORR 2 then CORR 1, leave in every register but CSTAT and in every memory
element (42_correlation_search.md R119). -/
def Obligations.DualSearchEqualsEitherOrder : Prop :=
  ∀ s : State, ∃ t a b c d, exec .corr2 s = .next t ∧
    exec (.corr 1#2) s = .next a ∧ exec (.corr 2#2) a = .next b ∧
    exec (.corr 2#2) s = .next c ∧ exec (.corr 1#2) c = .next d ∧
    SameArchitecture t { b with cstat := t.cstat } ∧ SameArchitecture t { d with cstat := t.cstat }

/-- Every interleaving of the two units' sequencer steps gives the final state of CORR2: "every interleaving gives the same
final state" (42_correlation_search.md R119). That both units commit their results when both have ended is the model's
choice (log 10). -/
def Obligations.EveryInterleavingGivesTheDualSearch : Prop :=
  ∀ (s : State) (events : List UnitId),
    events.count .a = corrStepCount (s.corrInput .c1) → events.count .b = corrStepCount (s.corrInput .c2) →
    exec .corr2 s = .next ((s.corrInterleaved events).concludeSearch [.c1, .c2])

/-! ### The consistency search -/

/-- FSEL with legal parameters answers a next state. The first candidate consistent with SEQ[1], SEQ[2] and the target is
the result, at distance 0 with outcome OK; if there is none, the result is 0 and DIST_NONE and the outcome
RECOVERY_FAILURE blamed on channel 3. Nothing else changes but unit A (43_consistency_search.md R142 to R145). -/
def Obligations.SelectFindsTheFirstConsistent : Prop :=
  ∀ s : State, s.params.Legal → SelectLegal s →
    ∃ t, exec .fsel s = .next t ∧
      (∀ j, FirstConsistent s (s.bitAt (.seq .c1)) (s.bitAt (.seq .c2)) j →
        t.ch3 = { s.ch3 with rfill := candidate s .c3 j, rdist := 0#32, rstat := 1#32 } ∧ t.cstat = statusWord 1 0) ∧
      ((∀ j, j < 2 ^ s.ch3.deg.toNat → ¬ Consistent s (s.bitAt (.seq .c1)) (s.bitAt (.seq .c2)) j) →
        t.ch3 = { s.ch3 with rfill := 0#32, rdist := 0xFFFFFFFF#32, rstat := 2#32 } ∧ t.cstat = statusWord 2 3) ∧
      (∀ sp a, t.bitAt sp a = s.bitAt sp a) ∧
      t = { s with ch3 := t.ch3, cstat := t.cstat, unitA := t.unitA, phase := .idle }

/-- FSEL with an illegal parameter clears channel 3's result, reports INVALID_PARAMETER in RSTAT[3] and, blamed on channel
3, in CSTAT, and changes nothing else (43_consistency_search.md R145, 60_exceptions.md R186). -/
def Obligations.SelectRejectsIllegalParameters : Prop :=
  ∀ s : State, ¬ SelectLegal s →
    exec .fsel s = .next { s with
      ch3 := { s.ch3 with rfill := 0#32, rdist := 0xFFFFFFFF#32, rstat := 3#32 }
      cstat := statusWord 3 3, phase := .idle }

/-- If FSEL ends OK with RFILL[3] = c, then the sequence of length TLEN from c is the window of the first candidate that
matches, and COMB over SEQ[1], SEQ[2] and that sequence, with GLEN = TLEN, writes the target to OUT
(43_consistency_search.md R147). -/
def Obligations.SelectedStateRegeneratesTheTarget : Prop :=
  ∀ s t : State, s.params.Legal → exec .fsel s = .next t → t.ch3.rstat = 1#32 →
    (∃ j, FirstConsistent s (s.bitAt (.seq .c1)) (s.bitAt (.seq .c2)) j ∧ t.ch3.rfill = candidate s .c3 j ∧
      ∀ a, a < t.tlen.toNat →
        (lfsrGen t.ch3.deg.toNat t.ch3.mask t.ch3.rfill t.tlen.toNat).1[a]? =
          some (runBit t.ch3.deg.toNat t.ch3.mask (j + a))) ∧
    ∀ u : State, u.params = s.params → u.glen = t.tlen →
      (∀ a, a < t.tlen.toNat →
        u.bitAt (.seq .c1) a = t.bitAt (.seq .c1) a ∧ u.bitAt (.seq .c2) a = t.bitAt (.seq .c2) a ∧
          (lfsrGen t.ch3.deg.toNat t.ch3.mask t.ch3.rfill t.tlen.toNat).1[a]? = some (u.bitAt (.seq .c3) a)) →
      ∃ v, exec .comb u = .next v ∧ v.cstat = statusWord 1 0 ∧
        ∀ a, a < t.tlen.toNat → v.bitAt .out a = t.bitAt .tgt a

/-! ### RECOVER -/

/-- RECOVER with an illegal parameter on some channel clears all results, reports INVALID_PARAMETER in RSTAT[k] of every
channel that fails its checks and NONE of the others, blames the lowest of them in CSTAT, and changes nothing else
(44_recover_pipeline.md R162). -/
def Obligations.RecoverChecksAllChannelsFirst : Prop :=
  ∀ (s : State) (k : Channel), ¬ RecoverLegal s k → (∀ j, channelNumber j < channelNumber k → RecoverLegal s j) →
    ∃ t, exec .recover s = .next t ∧
      (∀ j, (t.chan j) = { s.chan j with
        rfill := 0#32, rdist := 0xFFFFFFFF#32, rstat := (t.chan j).rstat }) ∧
      (∀ j, (RecoverLegal s j → (t.chan j).rstat = 0#32) ∧ (¬ RecoverLegal s j → (t.chan j).rstat = 3#32)) ∧
      t = { s with
        ch1 := t.ch1, ch2 := t.ch2, ch3 := t.ch3, cstat := statusWord 3 (channelNumber k), phase := .idle }

/-- RECOVER with legal parameters whose correlation stage fails on channel 1 or 2 stops there: channels 1 and 2 and CSTAT as
CORR2 leaves them, channel 3's result cleared with status NONE, no FILL, no memory and no configuration written, and
nothing else changed but the search units (44_recover_pipeline.md R163). -/
def Obligations.RecoverStopsAfterFailedCorrelation : Prop :=
  ∀ s : State, (∀ k, RecoverLegal s k) →
    ∃ c t, exec .corr2 s = .next c ∧ exec .recover s = .next t ∧
      (c.ch1.rstat ≠ 1#32 ∨ c.ch2.rstat ≠ 1#32 →
        t.ch1 = c.ch1 ∧ t.ch2 = c.ch2 ∧
        t.ch3 = { s.ch3 with rfill := 0#32, rdist := 0xFFFFFFFF#32, rstat := 0#32 } ∧
        t.cstat = c.cstat ∧ t.ch1.fill = s.ch1.fill ∧ t.ch2.fill = s.ch2.fill ∧
        (∀ sp a, t.bitAt sp a = s.bitAt sp a) ∧
        t = { s with
          ch1 := t.ch1, ch2 := t.ch2, ch3 := t.ch3, cstat := t.cstat, unitA := t.unitA, unitB := t.unitB
          phase := .idle })

/-- RECOVER with legal parameters, a winner on channels 1 and 2, but no selector state consistent with the sequences those
winners generate, stops after stage 3 with RECOVERY_FAILURE blamed on channel 3: SEQ[1], SEQ[2], FILL[1] and FILL[2]
are regenerated, FILL[3], SEQ[3], OUT and TGT unchanged (44_recover_pipeline.md R163). -/
def Obligations.RecoverStopsAfterFailedSelection : Prop :=
  ∀ (s : State) (j1 j2 : Nat), s.params.Legal → (∀ k, RecoverLegal s k) → Winner s .c1 j1 → Winner s .c2 j2 →
    (∀ j, j < 2 ^ s.ch3.deg.toNat →
      ¬ Consistent s (fun i => runBit s.ch1.deg.toNat s.ch1.mask (j1 + i))
        (fun i => runBit s.ch2.deg.toNat s.ch2.mask (j2 + i)) j) →
    ∃ t, exec .recover s = .next t ∧ t.cstat = statusWord 2 3 ∧
      t.ch1 = { s.ch1 with
        fill := runState s.ch1.deg.toNat s.ch1.mask (j1 + s.tlen.toNat)
        rfill := candidate s .c1 j1, rdist := BitVec.ofNat 32 (distance s .c1 j1), rstat := 1#32 } ∧
      t.ch2 = { s.ch2 with
        fill := runState s.ch2.deg.toNat s.ch2.mask (j2 + s.tlen.toNat)
        rfill := candidate s .c2 j2, rdist := BitVec.ofNat 32 (distance s .c2 j2), rstat := 1#32 } ∧
      t.ch3 = { s.ch3 with rfill := 0#32, rdist := 0xFFFFFFFF#32, rstat := 2#32 } ∧
      (∀ sp a, t.bitAt sp a =
        if sp = .seq .c1 ∧ a < s.tlen.toNat then runBit s.ch1.deg.toNat s.ch1.mask (j1 + a)
        else if sp = .seq .c2 ∧ a < s.tlen.toNat then runBit s.ch2.deg.toNat s.ch2.mask (j2 + a)
        else s.bitAt sp a) ∧
      t = { s with
        ch1 := t.ch1, ch2 := t.ch2, ch3 := t.ch3, seq1 := t.seq1, seq2 := t.seq2, cstat := t.cstat
        unitA := t.unitA, unitB := t.unitB, phase := .idle }

/-- RECOVER with legal parameters, a winner on channels 1 and 2 and a first selector state consistent with the sequences
those winners generate, ends OK: the three recovered states, their distances, the three sequences, the post-run fills,
and the target reproduced in OUT; nothing else changes but the search units (44_recover_pipeline.md R161). -/
def Obligations.RecoverFindsTheThreeStates : Prop :=
  ∀ (s : State) (j1 j2 j3 : Nat), s.params.Legal → (∀ k, RecoverLegal s k) → Winner s .c1 j1 → Winner s .c2 j2 →
    FirstConsistent s (fun i => runBit s.ch1.deg.toNat s.ch1.mask (j1 + i))
      (fun i => runBit s.ch2.deg.toNat s.ch2.mask (j2 + i)) j3 →
    ∃ t, exec .recover s = .next t ∧ t.cstat = statusWord 1 0 ∧
      t.ch1 = { s.ch1 with
        fill := runState s.ch1.deg.toNat s.ch1.mask (j1 + s.tlen.toNat)
        rfill := candidate s .c1 j1, rdist := BitVec.ofNat 32 (distance s .c1 j1), rstat := 1#32 } ∧
      t.ch2 = { s.ch2 with
        fill := runState s.ch2.deg.toNat s.ch2.mask (j2 + s.tlen.toNat)
        rfill := candidate s .c2 j2, rdist := BitVec.ofNat 32 (distance s .c2 j2), rstat := 1#32 } ∧
      t.ch3 = { s.ch3 with
        fill := runState s.ch3.deg.toNat s.ch3.mask (j3 + s.tlen.toNat)
        rfill := candidate s .c3 j3, rdist := 0#32, rstat := 1#32 } ∧
      (∀ sp a, t.bitAt sp a =
        if a < s.tlen.toNat then
          match sp with
          | .tgt => s.bitAt .tgt a
          | .seq .c1 => runBit s.ch1.deg.toNat s.ch1.mask (j1 + a)
          | .seq .c2 => runBit s.ch2.deg.toNat s.ch2.mask (j2 + a)
          | .seq .c3 => runBit s.ch3.deg.toNat s.ch3.mask (j3 + a)
          | .out => s.bitAt .tgt a
        else s.bitAt sp a) ∧
      t = { s with
        ch1 := t.ch1, ch2 := t.ch2, ch3 := t.ch3, seq1 := t.seq1, seq2 := t.seq2, seq3 := t.seq3, out := t.out
        cstat := t.cstat, unitA := t.unitA, unitB := t.unitB, phase := .idle }

/-- Whenever RECOVER ends OK, OUT equals the target at every index below TLEN, and the three recovered states generate the
three sequences in SEQ (44_recover_pipeline.md R164). -/
def Obligations.RecoverOkReproducesTheTarget : Prop :=
  ∀ s t : State, s.params.Legal → exec .recover s = .next t → t.cstat = statusWord 1 0 →
    (∀ a, a < s.tlen.toNat → t.bitAt .out a = t.bitAt .tgt a ∧ t.bitAt .tgt a = s.bitAt .tgt a) ∧
    ∀ k, (t.chan k).rstat = 1#32 ∧ (t.chan k).rfill ≠ 0#32 ∧
      (t.chan k).rfill.toNat < 2 ^ (s.chan k).deg.toNat ∧
      (∀ a, a < s.tlen.toNat →
        t.bitAt (.seq k) a = seqBit (s.chan k).deg.toNat (s.chan k).mask (t.chan k).rfill a) ∧
      (t.chan k).fill = (lfsrStep (s.chan k).deg.toNat (s.chan k).mask)^[s.tlen.toNat] (t.chan k).rfill

/-- With legal parameters RECOVER leaves the same RFILL, RDIST, RSTAT, FILL, SEQ, OUT and CSTAT as the host-issued stages,
which stop at the first command that does not end OK; GLEN is RECOVER's own, and where the correlation stage fails
channel 3's result is cleared by RECOVER and untouched by the host's stages (44_recover_pipeline.md R166). The host's WR
lines stand as the register updates that RegisterWriteStoresRawValue gives of them. -/
def Obligations.RecoverEqualsTheHostIssuedStages : Prop :=
  ∀ s : State, s.params.Legal → (∀ k, RecoverLegal s k) →
    ∃ t u, exec .recover s = .next t ∧ hostStages s = .next u ∧
      t.ch1 = u.ch1 ∧ t.ch2 = u.ch2 ∧ t.cstat = u.cstat ∧ (∀ sp a, t.bitAt sp a = u.bitAt sp a) ∧
      t.tlen = u.tlen ∧ t.glen = s.glen ∧
      (t.ch1.rstat = 1#32 ∧ t.ch2.rstat = 1#32 → t.ch3 = u.ch3) ∧
      (t.ch1.rstat ≠ 1#32 ∨ t.ch2.rstat ≠ 1#32 →
        u.ch3 = s.ch3 ∧ t.ch3 = { s.ch3 with rfill := 0#32, rdist := 0xFFFFFFFF#32, rstat := 0#32 })

/-! ### What holds of every command -/

/-- Every command ends: it answers a next state with the sequencer idle (70_reset_and_hazards.md R221). -/
def Obligations.EveryCommandEndsIdle : Prop :=
  ∀ (i : Instr) (s : State), ∃ t, exec i s = .next t ∧ t.phase = .idle

/-- Every command writes only the memory elements 20_memory.md R52 lists for it; none writes TGT. -/
def Obligations.CommandsWriteOnlyListedElements : Prop :=
  ∀ (i : Instr) (s : State), ∃ t, exec i s = .next t ∧
    ∀ sp a, ¬ MayWrite i s sp a → t.bitAt sp a = s.bitAt sp a

/-- No command writes a configuration register (DEG, MASK, NREQ, THRESH, GLEN, TLEN): none stands among what its rule
lists as written. No command touches the host's side either: the fields `pending`, `reply`, `memEpoch` and `params` are
the model's, and that a command leaves them alone is the model's choice (logs 1, 2, 3 and 5). -/
def Obligations.CommandsKeepTheConfiguration : Prop :=
  ∀ (i : Instr) (s : State), ∃ t, exec i s = .next t ∧ SameConfiguration s t ∧ SameHostSide s t

/-- A command changes FILL[k] only if it is GEN k or RECOVER: "never by a command acting on another channel"
(10_state.md R11). -/
def Obligations.FillChangesOnlyByItsOwnCommands : Prop :=
  ∀ (i : Instr) (s : State), ∃ t, exec i s = .next t ∧
    ∀ k, (t.chan k).fill ≠ (s.chan k).fill → i = .gen k.field ∨ i = .recover

/-- A command ends with DEGENERATE_STATE exactly when it is a GEN k whose parameters are legal and whose seed is 0, and CSTAT
then blames k: "no other command can raise it" (60_exceptions.md R183). -/
def Obligations.OnlyGenerateRaisesDegenerateState : Prop :=
  ∀ (i : Instr) (s : State), ∃ t, exec i s = .next t ∧
    (∀ k : Channel, i = .gen k.field → GenerateLegal s k → (s.chan k).fill = 0#32 →
      t.cstat = statusWord 4 (channelNumber k)) ∧
    (t.cstat.extractLsb' 0 4 = 4#4 →
      ∃ k : Channel, i = .gen k.field ∧ GenerateLegal s k ∧ (s.chan k).fill = 0#32)

/-- What a command writes depends on the operands its rule lists and on nothing else: not on an earlier outcome, not on the
scratch of an earlier search, not on a register or memory it does not read (00_scope.md R8, 60_exceptions.md R187). -/
def Obligations.OperandsDetermineWhatIsWritten : Prop :=
  ∀ (i : Instr) (s s' : State), SameOperands i s s' →
    ∃ t t', exec i s = .next t ∧ exec i s' = .next t' ∧ SameWritten i s t t'

/-- A command that did not end OK, issued again at once, ends the same way and leaves the same architectural state:
"reissuing a failed command without changing its inputs fails the same way" (60_exceptions.md R187). -/
def Obligations.FailedCommandFailsAgain : Prop :=
  ∀ (i : Instr) (s : State), s.params.Legal →
    ∃ t u, exec i s = .next t ∧ exec i t = .next u ∧
      (t.cstat.extractLsb' 0 4 ≠ 1#4 → SameArchitecture t u)

/-! ### The host's operations

That one step serves the operation at the head of `pending`, and that its answer is left in `reply`, is the model's choice
(logs 1 and 2); which answer it is, and what else changes, is the spec's. -/

/-- A register read answers the value the register map gives, or BusError for an unmapped number, and changes nothing else
(10_state.md R24, 20_memory.md R46; logs 1 and 2). -/
def Obligations.RegisterReadFollowsTheMap : Prop :=
  ∀ (s : State) (r : Nat) (rest : List HostOp), s.phase = .idle → s.pending = .regRead r :: rest →
    step s = .next { s with
      pending := rest
      reply := match (registerTable s).lookup r with
        | some v => .word v
        | none => .busError }

/-- A write to an RW register stores all 32 bits unchanged whatever they are: that number then reads as the written value,
every other as before, and no memory changes (10_state.md R25; logs 1 and 2). -/
def Obligations.RegisterWriteStoresRawValue : Prop :=
  ∀ (s : State) (r : Nat) (v : Word) (rest : List HostOp), s.phase = .idle → r ∈ writableNumbers →
    s.pending = .regWrite r v :: rest →
    ∃ t, step s = .next t ∧
      (∀ q, (registerTable t).lookup q = if q = r then some v else (registerTable s).lookup q) ∧
      t = { s with
        ch1 := t.ch1, ch2 := t.ch2, ch3 := t.ch3, glen := t.glen, tlen := t.tlen, pending := rest, reply := .done }

/-- A write to an unmapped or read-only register number answers BusError and changes nothing
(20_memory.md R47; logs 1 and 2). -/
def Obligations.RefusedRegisterWriteChangesNothing : Prop :=
  ∀ (s : State) (r : Nat) (v : Word) (rest : List HostOp), s.phase = .idle → r ≠ 0 → r ∉ writableNumbers →
    s.pending = .regWrite r v :: rest → step s = .next { s with pending := rest, reply := .busError }

/-- A memory read answers the bit of the element, or BusError for a bad space or an address at or above LMAX, and changes
nothing else (20_memory.md R46; logs 1 and 2). -/
def Obligations.MemoryReadAnswersTheBit : Prop :=
  ∀ (s : State) (n a : Nat) (rest : List HostOp), s.phase = .idle → s.pending = .memRead n a :: rest →
    (∀ sp, (n, sp) ∈ [(0, Space.tgt), (1, .seq .c1), (2, .seq .c2), (3, .seq .c3), (4, .out)] → a < s.params.lmax →
      step s = .next { s with pending := rest, reply := .bit (s.bitAt sp a) }) ∧
    (4 < n ∨ s.params.lmax ≤ a → step s = .next { s with pending := rest, reply := .busError })

/-- A memory write stores the bit in its element and in no other, and changes no register; a bad space or an address at or
above LMAX answers BusError and changes nothing (20_memory.md R46; logs 1 and 2). -/
def Obligations.MemoryWriteStoresOneBit : Prop :=
  ∀ (s : State) (n a : Nat) (b : Bool) (rest : List HostOp), s.phase = .idle → s.pending = .memWrite n a b :: rest →
    (∀ sp, (n, sp) ∈ [(0, Space.tgt), (1, .seq .c1), (2, .seq .c2), (3, .seq .c3), (4, .out)] → a < s.params.lmax →
      ∃ t, step s = .next t ∧
        (∀ sp' c, t.bitAt sp' c = if sp' = sp ∧ c = a then b else s.bitAt sp' c) ∧
        t = { s with
          tgt := t.tgt, seq1 := t.seq1, seq2 := t.seq2, seq3 := t.seq3, out := t.out
          pending := rest, reply := .done }) ∧
    (4 < n ∨ s.params.lmax ≤ a → step s = .next { s with pending := rest, reply := .busError })

/-- A write to CMD, whatever the word, completes with the sequencer idle and never answers BusError
(20_memory.md R47, R49; logs 1 and 2). -/
def Obligations.CommandWriteNeverAnswersBusError : Prop :=
  ∀ (s : State) (w : Word) (rest : List HostOp), s.phase = .idle → s.pending = .regWrite 0 w :: rest →
    ∃ t, step s = .next t ∧ t.reply = .done ∧ t.pending = rest ∧ t.phase = .idle

/-- With no host operation pending the engine idles. This is the model's choice (log 1). -/
def Obligations.EmptyQueueIdles : Prop :=
  ∀ s : State, s.pending = [] → step s = .next s

/-! ### Reset -/

/-- After reset every register reads its reset value: 0, but 0xFFFFFFFF for RDIST[k]; PHASE is IDLE (10_state.md R31). -/
def Obligations.ResetRegistersReadTheirResetValues : Prop :=
  (∀ q v, (registerTable State.reset).lookup q = some v →
    v = if q = 0x16 ∨ q = 0x26 ∨ q = 0x36 then 0xFFFFFFFF#32 else 0#32) ∧
  State.reset.phase = .idle

/-- The reset input, at any time, puts every register at its reset value and the sequencer at IDLE; it leaves the parameters
(70_reset_and_hazards.md R210; logs 1, 2, 5 and 9). -/
def Obligations.ResetInputResetsEveryRegister : Prop :=
  ∀ (s : State) (rest : List HostOp), s.pending = .reset :: rest →
    ∃ t, step s = .next t ∧ registerTable t = registerTable State.reset ∧ t.phase = .idle ∧
      t.params = s.params ∧ t.pending = rest

/-- Until the host sets a degree, GEN, CORR, CORR2, FSEL and RECOVER end with INVALID_PARAMETER, and COMB with GLEN = 0 ends
OK having written nothing (70_reset_and_hazards.md R211). -/
def Obligations.UnconfiguredCommandsFailFast : Prop :=
  ∀ s : State, (∀ k, (s.chan k).deg = 0#32) → s.glen = 0#32 →
    (∀ k : Channel, exec (.gen k.field) s = .next { s with cstat := statusWord 3 (channelNumber k), phase := .idle }) ∧
    (∀ k : Channel, ∃ t, exec (.corr k.field) s = .next t ∧ t.cstat = statusWord 3 (channelNumber k) ∧
      (t.chan k).rstat = 3#32) ∧
    (∃ t, exec .corr2 s = .next t ∧ t.cstat = statusWord 3 1 ∧ t.ch1.rstat = 3#32 ∧ t.ch2.rstat = 3#32) ∧
    (∃ t, exec .fsel s = .next t ∧ t.cstat = statusWord 3 3 ∧ t.ch3.rstat = 3#32) ∧
    (∃ t, exec .recover s = .next t ∧ t.cstat = statusWord 3 1 ∧ ∀ k, (t.chan k).rstat = 3#32) ∧
    exec .comb s = .next { s with cstat := statusWord 1 0, phase := .idle }

/-! ### The invariant -/

/-- The state after reset meets the invariant. -/
def Obligations.ResetMeetsTheInvariant : Prop := State.reset.Invariant

/-- From every state that meets the invariant, a step answers a next state, and that state meets the invariant: the memories
stay in canonical form and within LMAX, the status words hold legal outcomes, and every channel's RFILL and RDIST
agree with its RSTAT (10_state.md R17 to R19, R23, R26). -/
def Obligations.EveryStepKeepsTheInvariant : Prop :=
  ∀ s : State, s.Invariant → ∃ t, step s = .next t ∧ t.Invariant
end

