-- ==== Sys2Proof/Laws/State.lean ====
section
/-! SUPPORT. One lemma per field per update of the state, so that no proof unfolds an update. -/

namespace Sys2Proof.Machine

/-! ### `setChan` -/

@[simp] theorem params_setChan (s : State) (k : Channel) (c : ChannelRegs) : (s.setChan k c).params = s.params := by
  cases k <;> rfl
@[simp] theorem glen_setChan (s : State) (k : Channel) (c : ChannelRegs) : (s.setChan k c).glen = s.glen := by
  cases k <;> rfl
@[simp] theorem tlen_setChan (s : State) (k : Channel) (c : ChannelRegs) : (s.setChan k c).tlen = s.tlen := by
  cases k <;> rfl
@[simp] theorem cstat_setChan (s : State) (k : Channel) (c : ChannelRegs) : (s.setChan k c).cstat = s.cstat := by
  cases k <;> rfl
@[simp] theorem memEpoch_setChan (s : State) (k : Channel) (c : ChannelRegs) :
    (s.setChan k c).memEpoch = s.memEpoch := by
  cases k <;> rfl
@[simp] theorem phase_setChan (s : State) (k : Channel) (c : ChannelRegs) : (s.setChan k c).phase = s.phase := by
  cases k <;> rfl
@[simp] theorem pending_setChan (s : State) (k : Channel) (c : ChannelRegs) :
    (s.setChan k c).pending = s.pending := by
  cases k <;> rfl
@[simp] theorem reply_setChan (s : State) (k : Channel) (c : ChannelRegs) : (s.setChan k c).reply = s.reply := by
  cases k <;> rfl
@[simp] theorem mem_setChan (s : State) (k : Channel) (c : ChannelRegs) (sp' : Space) :
    (s.setChan k c).mem sp' = s.mem sp' := by
  cases k <;> rcases sp' with _ | (_ | _ | _) | _ <;> rfl
@[simp] theorem unit_setChan (s : State) (k : Channel) (c : ChannelRegs) (w' : UnitId) :
    (s.setChan k c).unit w' = s.unit w' := by
  cases k <;> cases w' <;> rfl
@[simp] theorem chan_setChan_same (s : State) (k : Channel) (c : ChannelRegs) : (s.setChan k c).chan k = c := by
  cases k <;> rfl
@[simp] theorem chan_setChan_ne (s : State) (k j : Channel) (c : ChannelRegs) (h : j ≠ k) :
    (s.setChan k c).chan j = s.chan j := by
  cases k <;> cases j <;> first | rfl | exact absurd rfl h

/-! ### `setUnit` -/

@[simp] theorem params_setUnit (s : State) (w : UnitId) (u : SearchUnit) : (s.setUnit w u).params = s.params := by
  cases w <;> rfl
@[simp] theorem glen_setUnit (s : State) (w : UnitId) (u : SearchUnit) : (s.setUnit w u).glen = s.glen := by
  cases w <;> rfl
@[simp] theorem tlen_setUnit (s : State) (w : UnitId) (u : SearchUnit) : (s.setUnit w u).tlen = s.tlen := by
  cases w <;> rfl
@[simp] theorem cstat_setUnit (s : State) (w : UnitId) (u : SearchUnit) : (s.setUnit w u).cstat = s.cstat := by
  cases w <;> rfl
@[simp] theorem memEpoch_setUnit (s : State) (w : UnitId) (u : SearchUnit) :
    (s.setUnit w u).memEpoch = s.memEpoch := by
  cases w <;> rfl
@[simp] theorem phase_setUnit (s : State) (w : UnitId) (u : SearchUnit) : (s.setUnit w u).phase = s.phase := by
  cases w <;> rfl
@[simp] theorem pending_setUnit (s : State) (w : UnitId) (u : SearchUnit) : (s.setUnit w u).pending = s.pending := by
  cases w <;> rfl
@[simp] theorem reply_setUnit (s : State) (w : UnitId) (u : SearchUnit) : (s.setUnit w u).reply = s.reply := by
  cases w <;> rfl
@[simp] theorem chan_setUnit (s : State) (w : UnitId) (u : SearchUnit) (j : Channel) :
    (s.setUnit w u).chan j = s.chan j := by
  cases w <;> cases j <;> rfl
@[simp] theorem mem_setUnit (s : State) (w : UnitId) (u : SearchUnit) (sp' : Space) :
    (s.setUnit w u).mem sp' = s.mem sp' := by
  cases w <;> rcases sp' with _ | (_ | _ | _) | _ <;> rfl
@[simp] theorem unit_setUnit_same (s : State) (w : UnitId) (u : SearchUnit) : (s.setUnit w u).unit w = u := by
  cases w <;> rfl
@[simp] theorem unit_setUnit_ne (s : State) (w v : UnitId) (u : SearchUnit) (h : v ≠ w) :
    (s.setUnit w u).unit v = s.unit v := by
  cases w <;> cases v <;> first | rfl | exact absurd rfl h

/-! ### `setMem` -/

@[simp] theorem params_setMem (s : State) (sp : Space) (m : BitMemory) : (s.setMem sp m).params = s.params := by
  rcases sp with _ | (_ | _ | _) | _ <;> rfl
@[simp] theorem glen_setMem (s : State) (sp : Space) (m : BitMemory) : (s.setMem sp m).glen = s.glen := by
  rcases sp with _ | (_ | _ | _) | _ <;> rfl
@[simp] theorem tlen_setMem (s : State) (sp : Space) (m : BitMemory) : (s.setMem sp m).tlen = s.tlen := by
  rcases sp with _ | (_ | _ | _) | _ <;> rfl
@[simp] theorem cstat_setMem (s : State) (sp : Space) (m : BitMemory) : (s.setMem sp m).cstat = s.cstat := by
  rcases sp with _ | (_ | _ | _) | _ <;> rfl
@[simp] theorem memEpoch_setMem (s : State) (sp : Space) (m : BitMemory) : (s.setMem sp m).memEpoch = s.memEpoch := by
  rcases sp with _ | (_ | _ | _) | _ <;> rfl
@[simp] theorem phase_setMem (s : State) (sp : Space) (m : BitMemory) : (s.setMem sp m).phase = s.phase := by
  rcases sp with _ | (_ | _ | _) | _ <;> rfl
@[simp] theorem pending_setMem (s : State) (sp : Space) (m : BitMemory) : (s.setMem sp m).pending = s.pending := by
  rcases sp with _ | (_ | _ | _) | _ <;> rfl
@[simp] theorem reply_setMem (s : State) (sp : Space) (m : BitMemory) : (s.setMem sp m).reply = s.reply := by
  rcases sp with _ | (_ | _ | _) | _ <;> rfl
@[simp] theorem chan_setMem (s : State) (sp : Space) (m : BitMemory) (j : Channel) :
    (s.setMem sp m).chan j = s.chan j := by
  rcases sp with _ | (_ | _ | _) | _ <;> cases j <;> rfl
@[simp] theorem unit_setMem (s : State) (sp : Space) (m : BitMemory) (w' : UnitId) :
    (s.setMem sp m).unit w' = s.unit w' := by
  rcases sp with _ | (_ | _ | _) | _ <;> cases w' <;> rfl
@[simp] theorem mem_setMem_same (s : State) (sp : Space) (m : BitMemory) : (s.setMem sp m).mem sp = m := by
  rcases sp with _ | (_ | _ | _) | _ <;> rfl
@[simp] theorem mem_setMem_ne (s : State) (sp sp' : Space) (m : BitMemory) (h : sp' ≠ sp) :
    (s.setMem sp m).mem sp' = s.mem sp' := by
  rcases sp with _ | (_ | _ | _) | _ <;> rcases sp' with _ | (_ | _ | _) | _ <;> first | rfl | exact absurd rfl h

/-! ### `setPhase` -/

@[simp] theorem params_setPhase (s : State) (p : Phase) : (s.setPhase p).params = s.params := rfl
@[simp] theorem glen_setPhase (s : State) (p : Phase) : (s.setPhase p).glen = s.glen := rfl
@[simp] theorem tlen_setPhase (s : State) (p : Phase) : (s.setPhase p).tlen = s.tlen := rfl
@[simp] theorem cstat_setPhase (s : State) (p : Phase) : (s.setPhase p).cstat = s.cstat := rfl
@[simp] theorem memEpoch_setPhase (s : State) (p : Phase) : (s.setPhase p).memEpoch = s.memEpoch := rfl
@[simp] theorem pending_setPhase (s : State) (p : Phase) : (s.setPhase p).pending = s.pending := rfl
@[simp] theorem reply_setPhase (s : State) (p : Phase) : (s.setPhase p).reply = s.reply := rfl
@[simp] theorem chan_setPhase (s : State) (p : Phase) (j : Channel) : (s.setPhase p).chan j = s.chan j := by
  cases j <;> rfl
@[simp] theorem mem_setPhase (s : State) (p : Phase) (sp' : Space) : (s.setPhase p).mem sp' = s.mem sp' := by
  rcases sp' with _ | (_ | _ | _) | _ <;> rfl
@[simp] theorem unit_setPhase (s : State) (p : Phase) (w' : UnitId) : (s.setPhase p).unit w' = s.unit w' := by
  cases w' <;> rfl
@[simp] theorem phase_setPhase (s : State) (p : Phase) : (s.setPhase p).phase = p := rfl

/-! ### `setReply` -/

@[simp] theorem params_setReply (s : State) (r : Reply) : (s.setReply r).params = s.params := rfl
@[simp] theorem glen_setReply (s : State) (r : Reply) : (s.setReply r).glen = s.glen := rfl
@[simp] theorem tlen_setReply (s : State) (r : Reply) : (s.setReply r).tlen = s.tlen := rfl
@[simp] theorem cstat_setReply (s : State) (r : Reply) : (s.setReply r).cstat = s.cstat := rfl
@[simp] theorem memEpoch_setReply (s : State) (r : Reply) : (s.setReply r).memEpoch = s.memEpoch := rfl
@[simp] theorem phase_setReply (s : State) (r : Reply) : (s.setReply r).phase = s.phase := rfl
@[simp] theorem pending_setReply (s : State) (r : Reply) : (s.setReply r).pending = s.pending := rfl
@[simp] theorem chan_setReply (s : State) (r : Reply) (j : Channel) : (s.setReply r).chan j = s.chan j := by
  cases j <;> rfl
@[simp] theorem mem_setReply (s : State) (r : Reply) (sp' : Space) : (s.setReply r).mem sp' = s.mem sp' := by
  rcases sp' with _ | (_ | _ | _) | _ <;> rfl
@[simp] theorem unit_setReply (s : State) (r : Reply) (w' : UnitId) : (s.setReply r).unit w' = s.unit w' := by
  cases w' <;> rfl
@[simp] theorem reply_setReply (s : State) (r : Reply) : (s.setReply r).reply = r := rfl

/-! ### `setPending` -/

@[simp] theorem params_setPending (s : State) (ops : List HostOp) : (s.setPending ops).params = s.params := rfl
@[simp] theorem glen_setPending (s : State) (ops : List HostOp) : (s.setPending ops).glen = s.glen := rfl
@[simp] theorem tlen_setPending (s : State) (ops : List HostOp) : (s.setPending ops).tlen = s.tlen := rfl
@[simp] theorem cstat_setPending (s : State) (ops : List HostOp) : (s.setPending ops).cstat = s.cstat := rfl
@[simp] theorem memEpoch_setPending (s : State) (ops : List HostOp) : (s.setPending ops).memEpoch = s.memEpoch := rfl
@[simp] theorem phase_setPending (s : State) (ops : List HostOp) : (s.setPending ops).phase = s.phase := rfl
@[simp] theorem reply_setPending (s : State) (ops : List HostOp) : (s.setPending ops).reply = s.reply := rfl
@[simp] theorem chan_setPending (s : State) (ops : List HostOp) (j : Channel) :
    (s.setPending ops).chan j = s.chan j := by
  cases j <;> rfl
@[simp] theorem mem_setPending (s : State) (ops : List HostOp) (sp' : Space) :
    (s.setPending ops).mem sp' = s.mem sp' := by
  rcases sp' with _ | (_ | _ | _) | _ <;> rfl
@[simp] theorem unit_setPending (s : State) (ops : List HostOp) (w' : UnitId) :
    (s.setPending ops).unit w' = s.unit w' := by
  cases w' <;> rfl
@[simp] theorem pending_setPending (s : State) (ops : List HostOp) : (s.setPending ops).pending = ops := rfl

/-! ### `conclude` -/

@[simp] theorem params_conclude (s : State) (c : BitVec 4) (b : BitVec 2) : (s.conclude c b).params = s.params := rfl
@[simp] theorem glen_conclude (s : State) (c : BitVec 4) (b : BitVec 2) : (s.conclude c b).glen = s.glen := rfl
@[simp] theorem tlen_conclude (s : State) (c : BitVec 4) (b : BitVec 2) : (s.conclude c b).tlen = s.tlen := rfl
@[simp] theorem memEpoch_conclude (s : State) (c : BitVec 4) (b : BitVec 2) :
    (s.conclude c b).memEpoch = s.memEpoch := rfl
@[simp] theorem pending_conclude (s : State) (c : BitVec 4) (b : BitVec 2) :
    (s.conclude c b).pending = s.pending := rfl
@[simp] theorem reply_conclude (s : State) (c : BitVec 4) (b : BitVec 2) : (s.conclude c b).reply = s.reply := rfl
@[simp] theorem chan_conclude (s : State) (c : BitVec 4) (b : BitVec 2) (j : Channel) :
    (s.conclude c b).chan j = s.chan j := by
  cases j <;> rfl
@[simp] theorem mem_conclude (s : State) (c : BitVec 4) (b : BitVec 2) (sp' : Space) :
    (s.conclude c b).mem sp' = s.mem sp' := by
  rcases sp' with _ | (_ | _ | _) | _ <;> rfl
@[simp] theorem unit_conclude (s : State) (c : BitVec 4) (b : BitVec 2) (w' : UnitId) :
    (s.conclude c b).unit w' = s.unit w' := by
  cases w' <;> rfl
@[simp] theorem cstat_conclude (s : State) (c : BitVec 4) (b : BitVec 2) :
    (s.conclude c b).cstat = cstatWord c b := rfl
@[simp] theorem phase_conclude (s : State) (c : BitVec 4) (b : BitVec 2) : (s.conclude c b).phase = .idle := rfl

/-! ### `setFill` -/

@[simp] theorem params_setFill (s : State) (k : Channel) (f : Word) : (s.setFill k f).params = s.params := by
  simp [State.setFill]
@[simp] theorem glen_setFill (s : State) (k : Channel) (f : Word) : (s.setFill k f).glen = s.glen := by
  simp [State.setFill]
@[simp] theorem tlen_setFill (s : State) (k : Channel) (f : Word) : (s.setFill k f).tlen = s.tlen := by
  simp [State.setFill]
@[simp] theorem cstat_setFill (s : State) (k : Channel) (f : Word) : (s.setFill k f).cstat = s.cstat := by
  simp [State.setFill]
@[simp] theorem memEpoch_setFill (s : State) (k : Channel) (f : Word) : (s.setFill k f).memEpoch = s.memEpoch := by
  simp [State.setFill]
@[simp] theorem phase_setFill (s : State) (k : Channel) (f : Word) : (s.setFill k f).phase = s.phase := by
  simp [State.setFill]
@[simp] theorem pending_setFill (s : State) (k : Channel) (f : Word) : (s.setFill k f).pending = s.pending := by
  simp [State.setFill]
@[simp] theorem reply_setFill (s : State) (k : Channel) (f : Word) : (s.setFill k f).reply = s.reply := by
  simp [State.setFill]
@[simp] theorem mem_setFill (s : State) (k : Channel) (f : Word) (sp' : Space) :
    (s.setFill k f).mem sp' = s.mem sp' := by
  simp [State.setFill]
@[simp] theorem unit_setFill (s : State) (k : Channel) (f : Word) (w' : UnitId) :
    (s.setFill k f).unit w' = s.unit w' := by
  simp [State.setFill]
@[simp] theorem chan_setFill_same (s : State) (k : Channel) (f : Word) :
    (s.setFill k f).chan k = { s.chan k with fill := f } := by simp [State.setFill]
@[simp] theorem chan_setFill_ne (s : State) (k j : Channel) (f : Word) (h : j ≠ k) :
    (s.setFill k f).chan j = s.chan j := by simp [State.setFill, h]

/-! ### `setResult` -/

@[simp] theorem params_setResult (s : State) (k : Channel) (f d : Word) (c : Code) :
    (s.setResult k f d c).params = s.params := by
  simp [State.setResult]
@[simp] theorem glen_setResult (s : State) (k : Channel) (f d : Word) (c : Code) :
    (s.setResult k f d c).glen = s.glen := by
  simp [State.setResult]
@[simp] theorem tlen_setResult (s : State) (k : Channel) (f d : Word) (c : Code) :
    (s.setResult k f d c).tlen = s.tlen := by
  simp [State.setResult]
@[simp] theorem cstat_setResult (s : State) (k : Channel) (f d : Word) (c : Code) :
    (s.setResult k f d c).cstat = s.cstat := by
  simp [State.setResult]
@[simp] theorem memEpoch_setResult (s : State) (k : Channel) (f d : Word) (c : Code) :
    (s.setResult k f d c).memEpoch = s.memEpoch := by
  simp [State.setResult]
@[simp] theorem phase_setResult (s : State) (k : Channel) (f d : Word) (c : Code) :
    (s.setResult k f d c).phase = s.phase := by
  simp [State.setResult]
@[simp] theorem pending_setResult (s : State) (k : Channel) (f d : Word) (c : Code) :
    (s.setResult k f d c).pending = s.pending := by
  simp [State.setResult]
@[simp] theorem reply_setResult (s : State) (k : Channel) (f d : Word) (c : Code) :
    (s.setResult k f d c).reply = s.reply := by
  simp [State.setResult]
@[simp] theorem mem_setResult (s : State) (k : Channel) (f d : Word) (c : Code) (sp' : Space) :
    (s.setResult k f d c).mem sp' = s.mem sp' := by
  simp [State.setResult]
@[simp] theorem unit_setResult (s : State) (k : Channel) (f d : Word) (c : Code) (w' : UnitId) :
    (s.setResult k f d c).unit w' = s.unit w' := by
  simp [State.setResult]
@[simp] theorem chan_setResult_same (s : State) (k : Channel) (f d : Word) (c : Code) :
    (s.setResult k f d c).chan k = { s.chan k with rfill := f, rdist := d, rstat := rstatWord c } := by
  simp [State.setResult]
@[simp] theorem chan_setResult_ne (s : State) (k j : Channel) (f d : Word) (c : Code) (h : j ≠ k) :
    (s.setResult k f d c).chan j = s.chan j := by simp [State.setResult, h]

/-! ### `failSearch` -/

@[simp] theorem params_failSearch (s : State) (k : Channel) (c : Code) : (s.failSearch k c).params = s.params := by
  simp [State.failSearch]
@[simp] theorem glen_failSearch (s : State) (k : Channel) (c : Code) : (s.failSearch k c).glen = s.glen := by
  simp [State.failSearch]
@[simp] theorem tlen_failSearch (s : State) (k : Channel) (c : Code) : (s.failSearch k c).tlen = s.tlen := by
  simp [State.failSearch]
@[simp] theorem cstat_failSearch (s : State) (k : Channel) (c : Code) : (s.failSearch k c).cstat = s.cstat := by
  simp [State.failSearch]
@[simp] theorem memEpoch_failSearch (s : State) (k : Channel) (c : Code) :
    (s.failSearch k c).memEpoch = s.memEpoch := by
  simp [State.failSearch]
@[simp] theorem phase_failSearch (s : State) (k : Channel) (c : Code) : (s.failSearch k c).phase = s.phase := by
  simp [State.failSearch]
@[simp] theorem pending_failSearch (s : State) (k : Channel) (c : Code) : (s.failSearch k c).pending = s.pending := by
  simp [State.failSearch]
@[simp] theorem reply_failSearch (s : State) (k : Channel) (c : Code) : (s.failSearch k c).reply = s.reply := by
  simp [State.failSearch]
@[simp] theorem mem_failSearch (s : State) (k : Channel) (c : Code) (sp' : Space) :
    (s.failSearch k c).mem sp' = s.mem sp' := by
  simp [State.failSearch]
@[simp] theorem unit_failSearch (s : State) (k : Channel) (c : Code) (w' : UnitId) :
    (s.failSearch k c).unit w' = s.unit w' := by
  simp [State.failSearch]
@[simp] theorem chan_failSearch_same (s : State) (k : Channel) (c : Code) :
    (s.failSearch k c).chan k = { s.chan k with rfill := 0#32, rdist := distNone, rstat := rstatWord c } := by
  simp [State.failSearch]
@[simp] theorem chan_failSearch_ne (s : State) (k j : Channel) (c : Code) (h : j ≠ k) :
    (s.failSearch k c).chan j = s.chan j := by simp [State.failSearch, h]

/-! ### `setBit` -/

@[simp] theorem params_setBit (s : State) (sp : Space) (a : Nat) (b : Bool) :
    (s.setBit sp a b).params = s.params := by
  simp [State.setBit]
@[simp] theorem glen_setBit (s : State) (sp : Space) (a : Nat) (b : Bool) : (s.setBit sp a b).glen = s.glen := by
  simp [State.setBit]
@[simp] theorem tlen_setBit (s : State) (sp : Space) (a : Nat) (b : Bool) : (s.setBit sp a b).tlen = s.tlen := by
  simp [State.setBit]
@[simp] theorem cstat_setBit (s : State) (sp : Space) (a : Nat) (b : Bool) : (s.setBit sp a b).cstat = s.cstat := by
  simp [State.setBit]
@[simp] theorem memEpoch_setBit (s : State) (sp : Space) (a : Nat) (b : Bool) :
    (s.setBit sp a b).memEpoch = s.memEpoch := by
  simp [State.setBit]
@[simp] theorem phase_setBit (s : State) (sp : Space) (a : Nat) (b : Bool) : (s.setBit sp a b).phase = s.phase := by
  simp [State.setBit]
@[simp] theorem pending_setBit (s : State) (sp : Space) (a : Nat) (b : Bool) :
    (s.setBit sp a b).pending = s.pending := by
  simp [State.setBit]
@[simp] theorem reply_setBit (s : State) (sp : Space) (a : Nat) (b : Bool) : (s.setBit sp a b).reply = s.reply := by
  simp [State.setBit]
@[simp] theorem chan_setBit (s : State) (sp : Space) (a : Nat) (b : Bool) (j : Channel) :
    (s.setBit sp a b).chan j = s.chan j := by
  simp [State.setBit]
@[simp] theorem unit_setBit (s : State) (sp : Space) (a : Nat) (b : Bool) (w' : UnitId) :
    (s.setBit sp a b).unit w' = s.unit w' := by
  simp [State.setBit]

/-! ### `writeSeq` -/

@[simp] theorem params_writeSeq (s : State) (sp : Space) (bits : List Bool) :
    (s.writeSeq sp bits).params = s.params := by
  simp [State.writeSeq]
@[simp] theorem glen_writeSeq (s : State) (sp : Space) (bits : List Bool) : (s.writeSeq sp bits).glen = s.glen := by
  simp [State.writeSeq]
@[simp] theorem tlen_writeSeq (s : State) (sp : Space) (bits : List Bool) : (s.writeSeq sp bits).tlen = s.tlen := by
  simp [State.writeSeq]
@[simp] theorem cstat_writeSeq (s : State) (sp : Space) (bits : List Bool) :
    (s.writeSeq sp bits).cstat = s.cstat := by
  simp [State.writeSeq]
@[simp] theorem memEpoch_writeSeq (s : State) (sp : Space) (bits : List Bool) :
    (s.writeSeq sp bits).memEpoch = s.memEpoch := by
  simp [State.writeSeq]
@[simp] theorem phase_writeSeq (s : State) (sp : Space) (bits : List Bool) :
    (s.writeSeq sp bits).phase = s.phase := by
  simp [State.writeSeq]
@[simp] theorem pending_writeSeq (s : State) (sp : Space) (bits : List Bool) :
    (s.writeSeq sp bits).pending = s.pending := by
  simp [State.writeSeq]
@[simp] theorem reply_writeSeq (s : State) (sp : Space) (bits : List Bool) :
    (s.writeSeq sp bits).reply = s.reply := by
  simp [State.writeSeq]
@[simp] theorem chan_writeSeq (s : State) (sp : Space) (bits : List Bool) (j : Channel) :
    (s.writeSeq sp bits).chan j = s.chan j := by
  simp [State.writeSeq]
@[simp] theorem unit_writeSeq (s : State) (sp : Space) (bits : List Bool) (w' : UnitId) :
    (s.writeSeq sp bits).unit w' = s.unit w' := by
  simp [State.writeSeq]

/-! ### `generateInto` -/

@[simp] theorem params_generateInto (s : State) (k : Channel) (f : Word) (len : Nat) :
    (s.generateInto k f len).params = s.params := by
  simp [State.generateInto]
@[simp] theorem glen_generateInto (s : State) (k : Channel) (f : Word) (len : Nat) :
    (s.generateInto k f len).glen = s.glen := by
  simp [State.generateInto]
@[simp] theorem tlen_generateInto (s : State) (k : Channel) (f : Word) (len : Nat) :
    (s.generateInto k f len).tlen = s.tlen := by
  simp [State.generateInto]
@[simp] theorem cstat_generateInto (s : State) (k : Channel) (f : Word) (len : Nat) :
    (s.generateInto k f len).cstat = s.cstat := by
  simp [State.generateInto]
@[simp] theorem memEpoch_generateInto (s : State) (k : Channel) (f : Word) (len : Nat) :
    (s.generateInto k f len).memEpoch = s.memEpoch := by
  simp [State.generateInto]
@[simp] theorem phase_generateInto (s : State) (k : Channel) (f : Word) (len : Nat) :
    (s.generateInto k f len).phase = s.phase := by
  simp [State.generateInto]
@[simp] theorem pending_generateInto (s : State) (k : Channel) (f : Word) (len : Nat) :
    (s.generateInto k f len).pending = s.pending := by
  simp [State.generateInto]
@[simp] theorem reply_generateInto (s : State) (k : Channel) (f : Word) (len : Nat) :
    (s.generateInto k f len).reply = s.reply := by
  simp [State.generateInto]
@[simp] theorem unit_generateInto (s : State) (k : Channel) (f : Word) (len : Nat) (w' : UnitId) :
    (s.generateInto k f len).unit w' = s.unit w' := by
  simp [State.generateInto]
@[simp] theorem chan_generateInto_ne (s : State) (k j : Channel) (f : Word) (len : Nat) (h : j ≠ k) :
    (s.generateInto k f len).chan j = s.chan j := by simp [State.generateInto, h]
@[simp] theorem chan_generateInto_same (s : State) (k : Channel) (f : Word) (len : Nat) :
    (s.generateInto k f len).chan k =
      { s.chan k with fill := (lfsrGen (s.degree k) (s.chan k).mask f len).2 } := by simp [State.generateInto]
@[simp] theorem mem_generateInto_ne (s : State) (k : Channel) (f : Word) (len : Nat) (sp : Space)
    (h : sp ≠ .seq k) : (s.generateInto k f len).mem sp = s.mem sp := by
  simp [State.generateInto, State.writeSeq, h]

/-! ### `combineInto` -/

@[simp] theorem params_combineInto (s : State) (len : Nat) : (s.combineInto len).params = s.params := by
  simp [State.combineInto]
@[simp] theorem glen_combineInto (s : State) (len : Nat) : (s.combineInto len).glen = s.glen := by
  simp [State.combineInto]
@[simp] theorem tlen_combineInto (s : State) (len : Nat) : (s.combineInto len).tlen = s.tlen := by
  simp [State.combineInto]
@[simp] theorem cstat_combineInto (s : State) (len : Nat) : (s.combineInto len).cstat = s.cstat := by
  simp [State.combineInto]
@[simp] theorem memEpoch_combineInto (s : State) (len : Nat) : (s.combineInto len).memEpoch = s.memEpoch := by
  simp [State.combineInto]
@[simp] theorem phase_combineInto (s : State) (len : Nat) : (s.combineInto len).phase = s.phase := by
  simp [State.combineInto]
@[simp] theorem pending_combineInto (s : State) (len : Nat) : (s.combineInto len).pending = s.pending := by
  simp [State.combineInto]
@[simp] theorem reply_combineInto (s : State) (len : Nat) : (s.combineInto len).reply = s.reply := by
  simp [State.combineInto]
@[simp] theorem chan_combineInto (s : State) (len : Nat) (j : Channel) : (s.combineInto len).chan j = s.chan j := by
  simp [State.combineInto]
@[simp] theorem unit_combineInto (s : State) (len : Nat) (w' : UnitId) : (s.combineInto len).unit w' = s.unit w' := by
  simp [State.combineInto]
@[simp] theorem mem_combineInto_ne (s : State) (len : Nat) (sp : Space) (h : sp ≠ .out) :
    (s.combineInto len).mem sp = s.mem sp := by simp [State.combineInto, State.writeSeq, h]

/-! ### `raise` -/

@[simp] theorem params_raise (s : State) (c : Code) (b : BitVec 2) : (s.raise c b).params = s.params := by
  simp [State.raise]
@[simp] theorem glen_raise (s : State) (c : Code) (b : BitVec 2) : (s.raise c b).glen = s.glen := by
  simp [State.raise]
@[simp] theorem tlen_raise (s : State) (c : Code) (b : BitVec 2) : (s.raise c b).tlen = s.tlen := by
  simp [State.raise]
@[simp] theorem memEpoch_raise (s : State) (c : Code) (b : BitVec 2) : (s.raise c b).memEpoch = s.memEpoch := by
  simp [State.raise]
@[simp] theorem pending_raise (s : State) (c : Code) (b : BitVec 2) : (s.raise c b).pending = s.pending := by
  simp [State.raise]
@[simp] theorem reply_raise (s : State) (c : Code) (b : BitVec 2) : (s.raise c b).reply = s.reply := by
  simp [State.raise]
@[simp] theorem chan_raise (s : State) (c : Code) (b : BitVec 2) (j : Channel) : (s.raise c b).chan j = s.chan j := by
  simp [State.raise]
@[simp] theorem mem_raise (s : State) (c : Code) (b : BitVec 2) (sp' : Space) :
    (s.raise c b).mem sp' = s.mem sp' := by
  simp [State.raise]
@[simp] theorem unit_raise (s : State) (c : Code) (b : BitVec 2) (w' : UnitId) :
    (s.raise c b).unit w' = s.unit w' := by
  simp [State.raise]
@[simp] theorem cstat_raise (s : State) (c : Code) (b : BitVec 2) : (s.raise c b).cstat = cstatWord c.bits b := rfl
@[simp] theorem phase_raise (s : State) (c : Code) (b : BitVec 2) : (s.raise c b).phase = .idle := rfl

/-! ### `concludeOk` -/

@[simp] theorem params_concludeOk (s : State) : (s.concludeOk).params = s.params := by simp [State.concludeOk]
@[simp] theorem glen_concludeOk (s : State) : (s.concludeOk).glen = s.glen := by simp [State.concludeOk]
@[simp] theorem tlen_concludeOk (s : State) : (s.concludeOk).tlen = s.tlen := by simp [State.concludeOk]
@[simp] theorem memEpoch_concludeOk (s : State) : (s.concludeOk).memEpoch = s.memEpoch := by simp [State.concludeOk]
@[simp] theorem pending_concludeOk (s : State) : (s.concludeOk).pending = s.pending := by simp [State.concludeOk]
@[simp] theorem reply_concludeOk (s : State) : (s.concludeOk).reply = s.reply := by simp [State.concludeOk]
@[simp] theorem chan_concludeOk (s : State) (j : Channel) : (s.concludeOk).chan j = s.chan j := by
  simp [State.concludeOk]
@[simp] theorem mem_concludeOk (s : State) (sp' : Space) : (s.concludeOk).mem sp' = s.mem sp' := by
  simp [State.concludeOk]
@[simp] theorem unit_concludeOk (s : State) (w' : UnitId) : (s.concludeOk).unit w' = s.unit w' := by
  simp [State.concludeOk]
@[simp] theorem cstat_concludeOk (s : State) : s.concludeOk.cstat = 1#32 := rfl
@[simp] theorem phase_concludeOk (s : State) : s.concludeOk.phase = .idle := rfl

/-! ### `raiseIllegal` -/

@[simp] theorem params_raiseIllegal (s : State) : (s.raiseIllegal).params = s.params := by simp [State.raiseIllegal]
@[simp] theorem glen_raiseIllegal (s : State) : (s.raiseIllegal).glen = s.glen := by simp [State.raiseIllegal]
@[simp] theorem tlen_raiseIllegal (s : State) : (s.raiseIllegal).tlen = s.tlen := by simp [State.raiseIllegal]
@[simp] theorem memEpoch_raiseIllegal (s : State) : (s.raiseIllegal).memEpoch = s.memEpoch := by
  simp [State.raiseIllegal]
@[simp] theorem pending_raiseIllegal (s : State) : (s.raiseIllegal).pending = s.pending := by
  simp [State.raiseIllegal]
@[simp] theorem reply_raiseIllegal (s : State) : (s.raiseIllegal).reply = s.reply := by simp [State.raiseIllegal]
@[simp] theorem chan_raiseIllegal (s : State) (j : Channel) : (s.raiseIllegal).chan j = s.chan j := by
  simp [State.raiseIllegal]
@[simp] theorem mem_raiseIllegal (s : State) (sp' : Space) : (s.raiseIllegal).mem sp' = s.mem sp' := by
  simp [State.raiseIllegal]
@[simp] theorem unit_raiseIllegal (s : State) (w' : UnitId) : (s.raiseIllegal).unit w' = s.unit w' := by
  simp [State.raiseIllegal]
@[simp] theorem cstat_raiseIllegal (s : State) : s.raiseIllegal.cstat = 5#32 := rfl
@[simp] theorem phase_raiseIllegal (s : State) : s.raiseIllegal.phase = .idle := rfl

end Sys2Proof.Machine
end

