-- ==== Sys2Proof/Laws/Memory.lean ====
section
/-! SUPPORT. The laws of the bit memories: what a read gives after a write, and that every operation keeps the canonical
form (20_memory.md R49, R53). -/

namespace Sys2Proof.Machine

/-! ### One memory -/

theorem BitMemory.read_write_same (m : BitMemory) (a : Nat) (b : Bool) :
    BitMemory.read (BitMemory.write m a b) a = some b := by
  induction m with
  | nil => simp [BitMemory.write, BitMemory.read]
  | cons c rest ih =>
    obtain ⟨x, v⟩ := c
    by_cases h1 : a < x
    · simp [BitMemory.write, BitMemory.read, h1]
    · by_cases h2 : a = x
      · simp [BitMemory.write, BitMemory.read, h2]
      · simp [BitMemory.write, BitMemory.read, h1, h2, Ne.symm h2, ih]

theorem BitMemory.read_write_other (m : BitMemory) (a c : Nat) (b : Bool) (h : c ≠ a) :
    BitMemory.read (BitMemory.write m a b) c = BitMemory.read m c := by
  induction m with
  | nil => simp [BitMemory.write, BitMemory.read, Ne.symm h]
  | cons d rest ih =>
    obtain ⟨x, v⟩ := d
    by_cases h1 : a < x
    · simp [BitMemory.write, BitMemory.read, h1, Ne.symm h]
    · by_cases h2 : a = x
      · subst h2
        simp [BitMemory.write, BitMemory.read, Ne.symm h]
      · simp [BitMemory.write, BitMemory.read, h1, h2, ih]

theorem BitMemory.read_write (m : BitMemory) (a c : Nat) (b : Bool) :
    BitMemory.read (BitMemory.write m a b) c = if c = a then some b else BitMemory.read m c := by
  split
  · next h => rw [h, BitMemory.read_write_same]
  · next h => exact BitMemory.read_write_other m a c b h

/-- Every address a write lists was listed before or is the one written. -/
theorem BitMemory.mem_write (m : BitMemory) (a : Nat) (b : Bool) (c : Nat × Bool)
    (h : c ∈ BitMemory.write m a b) : c = (a, b) ∨ c ∈ m := by
  induction m with
  | nil => simpa [BitMemory.write] using h
  | cons d rest ih =>
    obtain ⟨x, v⟩ := d
    by_cases h1 : a < x
    · simpa [BitMemory.write, h1] using h
    · by_cases h2 : a = x
      · simp only [BitMemory.write, h2, if_true, Nat.lt_irrefl, if_false, List.mem_cons] at h ⊢
        tauto
      · simp only [BitMemory.write, h1, h2, if_false, List.mem_cons] at h ⊢
        rcases h with h | h
        · exact .inr (.inl h)
        · exact (ih h).imp id .inr

theorem BitMemory.write_wf (m : BitMemory) (a : Nat) (b : Bool) (h : m.wf) : (BitMemory.write m a b).wf := by
  induction m with
  | nil => simp [BitMemory.write, BitMemory.wf]
  | cons d rest ih =>
    obtain ⟨x, v⟩ := d
    have hr := List.pairwise_cons.mp h
    by_cases h1 : a < x
    · rw [BitMemory.write, if_pos h1]
      refine List.pairwise_cons.mpr ⟨?_, h⟩
      intro c hc
      rcases List.mem_cons.mp hc with rfl | hc
      · exact h1
      · exact Nat.lt_trans h1 (hr.1 c hc)
    · by_cases h2 : a = x
      · subst h2
        simpa [BitMemory.write, BitMemory.wf] using h
      · simp only [BitMemory.write, h1, h2, if_false]
        refine List.pairwise_cons.mpr ⟨?_, ih hr.2⟩
        intro c hc
        rcases BitMemory.mem_write rest a b c hc with rfl | hc
        · exact show x < a by omega
        · exact hr.1 c hc

theorem BitMemory.read_writeFrom (bits : List Bool) : ∀ (m : BitMemory) (a c : Nat),
    BitMemory.read (BitMemory.writeFrom m a bits) c =
      if a ≤ c ∧ c < a + bits.length then bits[c - a]? else BitMemory.read m c := by
  induction bits with
  | nil =>
    intro m a c
    rw [if_neg (by simp)]
    rfl
  | cons b bs ih =>
    intro m a c
    rw [BitMemory.writeFrom, ih, BitMemory.read_write, List.length_cons]
    by_cases h1 : a + 1 ≤ c ∧ c < a + 1 + bs.length
    · rw [if_pos h1, if_pos (by omega), show c - a = (c - (a + 1)) + 1 by omega, List.getElem?_cons_succ]
    · rw [if_neg h1]
      by_cases h2 : c = a
      · subst h2
        simp
      · rw [if_neg h2, if_neg (by omega)]

theorem BitMemory.writeFrom_wf (bits : List Bool) : ∀ (m : BitMemory) (a : Nat), m.wf →
    (BitMemory.writeFrom m a bits).wf := by
  induction bits with
  | nil => intro m a h; exact h
  | cons b bs ih => intro m a h; exact ih _ _ (BitMemory.write_wf m a b h)

theorem BitMemory.mem_writeFrom (bits : List Bool) : ∀ (m : BitMemory) (a : Nat) (c : Nat × Bool),
    c ∈ BitMemory.writeFrom m a bits → c ∈ m ∨ c.1 < a + bits.length := by
  induction bits with
  | nil => intro m a c h; exact .inl h
  | cons b bs ih =>
    intro m a c h
    rw [List.length_cons]
    rcases ih _ _ _ h with h | h
    · rcases BitMemory.mem_write m a b c h with rfl | h
      · exact .inr (show a < a + (bs.length + 1) by omega)
      · exact .inl h
    · exact .inr (by omega)

/-- A write below the capacity keeps a memory legal. -/
theorem MemoryLegal.write {lmax : Nat} {m : BitMemory} (h : MemoryLegal lmax m) (a : Nat) (b : Bool)
    (ha : a < lmax) : MemoryLegal lmax (BitMemory.write m a b) := by
  refine ⟨BitMemory.write_wf m a b h.1, fun c hc => ?_⟩
  rcases BitMemory.mem_write m a b c hc with rfl | hc
  · exact ha
  · exact h.2 c hc

/-- A sequence no longer than the capacity, written from address 0, keeps a memory legal. -/
theorem MemoryLegal.writeFrom {lmax : Nat} {m : BitMemory} (h : MemoryLegal lmax m) (bits : List Bool)
    (hb : bits.length ≤ lmax) : MemoryLegal lmax (BitMemory.writeFrom m 0 bits) := by
  refine ⟨BitMemory.writeFrom_wf bits m 0 h.1, fun c hc => ?_⟩
  rcases BitMemory.mem_writeFrom bits m 0 c hc with hc | hc
  · exact h.2 c hc
  · omega

/-! ### The memories of the state -/

theorem bitAt_setBit (s : State) (sp sp' : Space) (a c : Nat) (b : Bool) :
    (s.setBit sp a b).bitAt sp' c = if sp' = sp ∧ c = a then b else s.bitAt sp' c := by
  by_cases h : sp' = sp
  · subst h
    simp only [State.bitAt, State.setBit, mem_setMem_same, memEpoch_setMem, BitMemory.read_write, true_and]
    by_cases h2 : c = a <;> simp [h2]
  · simp [State.bitAt, State.setBit, h]

/-- What a memory holds after a sequence is written to it: "a command that writes a sequence of length `L` writes exactly
those addresses" (20_memory.md R41). -/
theorem bitAt_writeSeq (s : State) (sp sp' : Space) (bits : List Bool) (c : Nat) :
    (s.writeSeq sp bits).bitAt sp' c = if sp' = sp ∧ c < bits.length then bits.getD c false else s.bitAt sp' c := by
  by_cases h : sp' = sp
  · subst h
    simp only [State.bitAt, State.writeSeq, mem_setMem_same, memEpoch_setMem, BitMemory.read_writeFrom, true_and,
      Nat.zero_le, Nat.zero_add, Nat.sub_zero]
    by_cases h2 : c < bits.length
    · rw [if_pos h2, if_pos h2, List.getD_eq_getElem?_getD, List.getElem?_eq_getElem h2]
      rfl
    · rw [if_neg h2, if_neg h2]
  · simp [State.bitAt, State.writeSeq, h]

/-- An update that keeps a memory's cells and the reset count keeps its bits. -/
theorem bitAt_congr {s t : State} {sp : Space} (hm : t.mem sp = s.mem sp) (he : t.memEpoch = s.memEpoch) (a : Nat) :
    t.bitAt sp a = s.bitAt sp a := by
  simp [State.bitAt, hm, he]

theorem readSeq_congr {s t : State} {sp : Space} (hm : t.mem sp = s.mem sp) (he : t.memEpoch = s.memEpoch)
    (len : Nat) : t.readSeq sp len = s.readSeq sp len := by
  unfold State.readSeq
  exact List.map_congr_left fun a _ => bitAt_congr hm he a

@[simp] theorem length_readSeq (s : State) (sp : Space) (len : Nat) : (s.readSeq sp len).length = len := by
  simp [State.readSeq]

theorem getElem_readSeq (s : State) (sp : Space) (len i : Nat) (h : i < (s.readSeq sp len).length) :
    (s.readSeq sp len)[i] = s.bitAt sp i := by
  simp [State.readSeq]

end Sys2Proof.Machine
end

