-- ==== Sys2Proof/Laws/Sequence.lean ====
section
/-! SUPPORT. What the sequence operations give: lengths, elements, and the memories they leave. -/

namespace Sys2Proof.Machine

@[simp] theorem lfsrGen_zero (n : Nat) (m f : Word) : lfsrGen n m f 0 = ([], f) := rfl

theorem lfsrGen_succ (n : Nat) (m f : Word) (len : Nat) :
    lfsrGen n m f (len + 1) =
      (lfsrOut f :: (lfsrGen n m (lfsrStep n m f) len).1, (lfsrGen n m (lfsrStep n m f) len).2) := rfl

@[simp] theorem length_lfsrGen (n : Nat) (m : Word) (len : Nat) : ∀ f, (lfsrGen n m f len).1.length = len := by
  induction len with
  | zero => intro f; rfl
  | succ len ih => intro f; simp [lfsrGen_succ, ih]

@[simp] theorem length_runBuffer (n : Nat) (m : Word) (len : Nat) : (runBuffer n m len).length = 2 ^ n + max len n := by
  simp [runBuffer, runLength]

theorem length_window (run : List Bool) (j len : Nat) (h : j + len ≤ run.length) : (window run j len).length = len := by
  simp [window]; omega

theorem getElem_window (run : List Bool) (j len i : Nat) (h : i < (window run j len).length)
    (h' : j + i < run.length) : (window run j len)[i] = run[j + i] := by
  simp [window]

@[simp] theorem combineWith_nil_left (g : Bool → Bool → Bool → Bool) (ys zs : List Bool) :
    combineWith g [] ys zs = [] := by simp [combineWith]

/-- Three sequences of one length combine to a sequence of that length. -/
theorem length_combineWith (g : Bool → Bool → Bool → Bool) : ∀ (xs ys zs : List Bool), ys.length = xs.length →
    zs.length = xs.length → (combineWith g xs ys zs).length = xs.length
  | [], ys, zs, _, _ => by simp
  | x :: xs, y :: ys, z :: zs, hy, hz => by
    simp [combineWith, length_combineWith g xs ys zs (by simpa using hy) (by simpa using hz)]

/-- Element i of the combination is the combiner applied to the elements i. -/
theorem getElem_combineWith (g : Bool → Bool → Bool → Bool) : ∀ (xs ys zs : List Bool) (i : Nat)
    (h : i < (combineWith g xs ys zs).length) (hx : i < xs.length) (hy : i < ys.length) (hz : i < zs.length),
    (combineWith g xs ys zs)[i] = g xs[i] ys[i] zs[i]
  | [], _, _, i, _, hx, _, _ => by simp at hx
  | _ :: _, [], _, i, _, _, hy, _ => by simp at hy
  | _ :: _, _ :: _, [], i, _, _, _, hz => by simp at hz
  | x :: xs, y :: ys, z :: zs, 0, _, _, _, _ => by simp [combineWith]
  | x :: xs, y :: ys, z :: zs, i + 1, h, hx, hy, hz => by
    simp only [combineWith, List.getElem_cons_succ]
    exact getElem_combineWith g xs ys zs i (by simpa [combineWith] using h) (by simpa using hx) (by simpa using hy)
      (by simpa using hz)

/-- What a generation leaves in the memories: its bits at addresses 0 to len - 1 of SEQ[k], all else as before. -/
theorem bitAt_generateInto (s : State) (k : Channel) (f : Word) (len : Nat) (sp : Space) (a : Nat) :
    (s.generateInto k f len).bitAt sp a =
      if sp = .seq k ∧ a < len then (lfsrGen (s.degree k) (s.chan k).mask f len).1.getD a false
      else s.bitAt sp a := by
  have h : (s.generateInto k f len).bitAt sp a =
      (s.writeSeq (.seq k) (lfsrGen (s.degree k) (s.chan k).mask f len).1).bitAt sp a :=
    bitAt_congr (by simp [State.generateInto]) (by simp [State.generateInto]) a
  rw [h, bitAt_writeSeq, length_lfsrGen]

/-- What a combination leaves in the memories: the combined bits at addresses 0 to len - 1 of OUT, all else as before. -/
theorem bitAt_combineInto (s : State) (len : Nat) (sp : Space) (a : Nat) :
    (s.combineInto len).bitAt sp a =
      if sp = .out ∧ a < len then geffe (s.bitAt (.seq .c1) a) (s.bitAt (.seq .c2) a) (s.bitAt (.seq .c3) a)
      else s.bitAt sp a := by
  have hl : (combineWith geffe (s.readSeq (.seq .c1) len) (s.readSeq (.seq .c2) len)
      (s.readSeq (.seq .c3) len)).length = len := by
    rw [length_combineWith] <;> simp
  rw [State.combineInto, bitAt_writeSeq, hl]
  split
  · next h =>
    rw [List.getD_eq_getElem _ _ (by rw [hl]; exact h.2), getElem_combineWith (hx := by simpa using h.2)
      (hy := by simpa using h.2) (hz := by simpa using h.2)]
    simp only [getElem_readSeq]
  · rfl

/-- A generation no longer than the capacity keeps the memories legal. -/
theorem MemoryLegal.generateInto {s : State} (h : ∀ sp, MemoryLegal s.params.lmax (s.mem sp)) (k : Channel) (f : Word)
    (len : Nat) (hl : len ≤ s.params.lmax) : ∀ sp, MemoryLegal s.params.lmax ((s.generateInto k f len).mem sp) := by
  intro sp
  by_cases hk : sp = .seq k
  · subst hk
    simp only [State.generateInto, State.writeSeq, mem_setFill, mem_setMem_same]
    exact (h _).writeFrom _ (by simpa using hl)
  · rw [mem_generateInto_ne s k f len sp hk]; exact h sp

/-- A combination no longer than the capacity keeps the memories legal. -/
theorem MemoryLegal.combineInto {s : State} (h : ∀ sp, MemoryLegal s.params.lmax (s.mem sp)) (len : Nat)
    (hl : len ≤ s.params.lmax) : ∀ sp, MemoryLegal s.params.lmax ((s.combineInto len).mem sp) := by
  intro sp
  by_cases hk : sp = .out
  · subst hk
    simp only [State.combineInto, State.writeSeq, mem_setMem_same]
    refine (h _).writeFrom _ ?_
    rw [length_combineWith] <;> simp [hl]
  · rw [mem_combineInto_ne s len sp hk]; exact h sp

end Sys2Proof.Machine
end

