-- ==== Sys2Proof/Laws/Search.lean ====
section
/-! SUPPORT. What the two searches and their shared operations can do: one lemma each, which later proofs cite instead of
unfolding them. -/

namespace Sys2Proof.Machine

/-! ### Their inputs depend on few fields -/

theorem corrInput_congr {s t : State} {k : Channel} (hp : t.params = s.params) (hd : (t.chan k).deg = (s.chan k).deg)
    (hm : (t.chan k).mask = (s.chan k).mask) (hn : (t.chan k).nreq = (s.chan k).nreq)
    (hc : (t.chan k).thresh = (s.chan k).thresh) (hl : t.tlen = s.tlen)
    (hb : ∀ a, t.bitAt .tgt a = s.bitAt .tgt a) : t.corrInput k = s.corrInput k := by
  have hr : ∀ len, t.readSeq .tgt len = s.readSeq .tgt len := fun len => List.map_congr_left fun a _ => hb a
  have e : t.CorrLegal k ↔ s.CorrLegal k := by
    simp only [State.CorrLegal, State.DegreeLegal, State.MaskLegal, State.TargetLegal, State.PrefixLegal,
      State.degree, hp, hd, hm, hn, hl]
  by_cases h : s.CorrLegal k
  · rw [State.corrInput, State.corrInput, if_pos h, if_pos (e.mpr h)]
    simp only [State.degree, hd, hm, hn, hc, hr]
  · rw [State.corrInput, State.corrInput, if_neg h, if_neg (mt e.mp h)]

theorem fselInput_congr {s t : State} (hp : t.params = s.params) (hd : (t.chan .c3).deg = (s.chan .c3).deg)
    (hm : (t.chan .c3).mask = (s.chan .c3).mask) (hl : t.tlen = s.tlen)
    (hb : ∀ sp a, sp = .tgt ∨ sp = .seq .c1 ∨ sp = .seq .c2 → t.bitAt sp a = s.bitAt sp a) :
    t.fselInput = s.fselInput := by
  have hr : ∀ sp len, sp = .tgt ∨ sp = .seq .c1 ∨ sp = .seq .c2 → t.readSeq sp len = s.readSeq sp len :=
    fun sp len h => List.map_congr_left fun a _ => hb sp a h
  have e : t.FselLegal ↔ s.FselLegal := by
    simp only [State.FselLegal, State.DegreeLegal, State.MaskLegal, State.TargetLegal, State.degree, hp, hd, hm, hl]
  by_cases h : s.FselLegal
  · rw [State.fselInput, State.fselInput, if_pos h, if_pos (e.mpr h)]
    simp only [State.degree, hd, hm, hl, hr .tgt _ (.inl rfl), hr (.seq .c1) _ (.inr (.inl rfl)),
      hr (.seq .c2) _ (.inr (.inr rfl))]
  · rw [State.fselInput, State.fselInput, if_neg h, if_neg (mt e.mp h)]

/-! ### One sequencer step -/

@[simp] theorem j_advance (u : SearchUnit) (n : Nat) (run : List Bool) :
    (u.advance n run).j = if u.j.toNat + 1 < 2 ^ n then u.j + 1#33 else u.j := rfl
@[simp] theorem cand_advance (u : SearchUnit) (n : Nat) (run : List Bool) :
    (u.advance n run).cand = successor n run u.j.toNat u.cand := rfl
@[simp] theorem bests_advance (u : SearchUnit) (n : Nat) (run : List Bool) : (u.advance n run).bests = u.bests := rfl
@[simp] theorem bestr_advance (u : SearchUnit) (n : Nat) (run : List Bool) : (u.advance n run).bestr = u.bestr := rfl
@[simp] theorem r_advance (u : SearchUnit) (n : Nat) (run : List Bool) : (u.advance n run).r = u.r := rfl

/-- J advances by one, up to the last candidate's index (10_state.md R28). -/
theorem toNat_j_advance (u : SearchUnit) (n : Nat) (run : List Bool) (hn : n ≤ 32) (hj : u.j.toNat < 2 ^ n) :
    (u.advance n run).j.toNat = min (u.j.toNat + 1) (2 ^ n - 1) := by
  have hp : 2 ^ n ≤ 2 ^ 32 := Nat.pow_le_pow_right (by decide) hn
  rw [j_advance]
  split
  · rw [BitVec.toNat_add, Nat.mod_eq_of_lt (by simp; omega)]
    simp; omega
  · omega

@[simp] theorem j_corrStep (x : CorrInput) (u : SearchUnit) : (corrStep x u).j = (u.advance x.n x.run).j := rfl
@[simp] theorem cand_corrStep (x : CorrInput) (u : SearchUnit) : (corrStep x u).cand = (u.advance x.n x.run).cand := rfl

/-! ### The correlation search -/

/-- Until a candidate is accepted there is no best state and no best distance; after, both are real. -/
theorem corrStep_best (x : CorrInput) (u : SearchUnit) (h : u.bests = 0#32 ↔ u.bestr = distNone) :
    (corrStep x u).bests = 0#32 ↔ (corrStep x u).bestr = distNone := by
  simp only [corrStep, bests_advance, bestr_advance]
  split
  · next ha =>
    refine iff_of_false ha.1 fun hr => ?_
    have := ha.2.2
    rw [hr] at this
    exact absurd (BitVec.lt_def.mp this) (by have := u.bestr.isLt; simp [distNone] at this ⊢; omega)
  · exact h

theorem corrScan_best (x : CorrInput) (u : SearchUnit) :
    (corrScan x u.start).bests = 0#32 ↔ (corrScan x u.start).bestr = distNone := by
  have h : ∀ (k : Nat) (v : SearchUnit), (v.bests = 0#32 ↔ v.bestr = distNone) →
      (((corrStep x)^[k] v).bests = 0#32 ↔ ((corrStep x)^[k] v).bestr = distNone) := by
    intro k
    induction k with
    | zero => intro v hv; exact hv
    | succ k ih => intro v hv; exact ih _ (corrStep_best x v hv)
  exact h _ _ (by simp [SearchUnit.start])

/-- Everything a correlation search can do: set its unit, and set its channel's three result registers, either to a
nonzero fill and a real distance with OK, or to 0 and DIST_NONE with an error (42_correlation_search.md R116, R117). -/
theorem corrUnit_cases (s : State) (w : UnitId) (k : Channel) :
    ∃ u f d c, s.corrUnit w k = (s.setUnit w u).setResult k f d c ∧
      ((c = .ok ∧ f ≠ 0#32 ∧ d ≠ distNone ∧ s.CorrLegal k) ∨
        (c = .recoveryFailure ∧ f = 0#32 ∧ d = distNone ∧ s.CorrLegal k) ∨
        (c = .invalidParameter ∧ f = 0#32 ∧ d = distNone ∧ u = s.unit w ∧ ¬ s.CorrLegal k)) := by
  by_cases hl : s.CorrLegal k
  · obtain ⟨x, hx⟩ : ∃ x, s.corrInput k = some x := ⟨_, if_pos hl⟩
    simp only [State.corrUnit, hx, State.corrCommit, corrFinal, State.corrResult]
    split
    · next h =>
      exact ⟨_, _, _, _, rfl, .inl ⟨rfl, fun hb => h ((corrScan_best x _).mp hb), h, hl⟩⟩
    · exact ⟨_, _, _, _, rfl, .inr (.inl ⟨rfl, rfl, rfl, hl⟩)⟩
  · have hx : s.corrInput k = none := if_neg hl
    refine ⟨s.unit w, 0#32, distNone, .invalidParameter, ?_, .inr (.inr ⟨rfl, rfl, rfl, rfl, hl⟩)⟩
    simp only [State.corrUnit, hx, State.corrCommit, State.failSearch]
    cases w <;> rfl

@[simp] theorem params_corrUnit (s : State) (w : UnitId) (k : Channel) : (s.corrUnit w k).params = s.params := by
  obtain ⟨u, f, d, c, h, -⟩ := corrUnit_cases s w k
  simp [h]
@[simp] theorem glen_corrUnit (s : State) (w : UnitId) (k : Channel) : (s.corrUnit w k).glen = s.glen := by
  obtain ⟨u, f, d, c, h, -⟩ := corrUnit_cases s w k
  simp [h]
@[simp] theorem tlen_corrUnit (s : State) (w : UnitId) (k : Channel) : (s.corrUnit w k).tlen = s.tlen := by
  obtain ⟨u, f, d, c, h, -⟩ := corrUnit_cases s w k
  simp [h]
@[simp] theorem cstat_corrUnit (s : State) (w : UnitId) (k : Channel) : (s.corrUnit w k).cstat = s.cstat := by
  obtain ⟨u, f, d, c, h, -⟩ := corrUnit_cases s w k
  simp [h]
@[simp] theorem memEpoch_corrUnit (s : State) (w : UnitId) (k : Channel) : (s.corrUnit w k).memEpoch = s.memEpoch := by
  obtain ⟨u, f, d, c, h, -⟩ := corrUnit_cases s w k
  simp [h]
@[simp] theorem phase_corrUnit (s : State) (w : UnitId) (k : Channel) : (s.corrUnit w k).phase = s.phase := by
  obtain ⟨u, f, d, c, h, -⟩ := corrUnit_cases s w k
  simp [h]
@[simp] theorem pending_corrUnit (s : State) (w : UnitId) (k : Channel) : (s.corrUnit w k).pending = s.pending := by
  obtain ⟨u, f, d, c, h, -⟩ := corrUnit_cases s w k
  simp [h]
@[simp] theorem reply_corrUnit (s : State) (w : UnitId) (k : Channel) : (s.corrUnit w k).reply = s.reply := by
  obtain ⟨u, f, d, c, h, -⟩ := corrUnit_cases s w k
  simp [h]
@[simp] theorem mem_corrUnit (s : State) (w : UnitId) (k : Channel) (sp : Space) :
    (s.corrUnit w k).mem sp = s.mem sp := by
  obtain ⟨u, f, d, c, h, -⟩ := corrUnit_cases s w k
  simp [h]
@[simp] theorem chan_corrUnit_ne (s : State) (w : UnitId) (k j : Channel) (h : j ≠ k) :
    (s.corrUnit w k).chan j = s.chan j := by
  obtain ⟨u, f, d, c, e, -⟩ := corrUnit_cases s w k
  simp [e, h]

/-- A correlation search writes no register of its channel but the three result registers. -/
theorem chan_corrUnit_same (s : State) (w : UnitId) (k : Channel) :
    (s.corrUnit w k).chan k =
      { s.chan k with
        rfill := ((s.corrUnit w k).chan k).rfill
        rdist := ((s.corrUnit w k).chan k).rdist
        rstat := ((s.corrUnit w k).chan k).rstat } := by
  obtain ⟨u, f, d, c, e, -⟩ := corrUnit_cases s w k
  simp [e]

@[simp] theorem bitAt_corrUnit (s : State) (w : UnitId) (k : Channel) (sp : Space) (a : Nat) :
    (s.corrUnit w k).bitAt sp a = s.bitAt sp a := bitAt_congr (by simp) (by simp) a

/-! ### The consistency search -/

/-- A scan that found a match stands at a nonzero candidate. -/
theorem fselScan_found (x : FselInput) : ∀ (left : Nat) (u : SearchUnit), (fselScan x left u).2 = true →
    (fselScan x left u).1.cand ≠ 0#32
  | 0, _, h => by simp [fselScan] at h
  | left + 1, u, h => by
    by_cases hm : u.cand ≠ 0#32 ∧ fselMatch x u.j.toNat = true
    · rw [fselScan, if_pos hm]; exact hm.1
    · rw [fselScan, if_neg hm] at h ⊢
      exact fselScan_found x left _ h

/-- Everything the consistency search can do: set unit A, and set channel 3's result registers, either to a nonzero fill
and distance 0 with OK, or to 0 and DIST_NONE with an error (43_consistency_search.md R145). -/
theorem fselUnit_cases (s : State) :
    ∃ u f d c, s.fselUnit = (s.setUnit .a u).setResult .c3 f d c ∧
      ((c = .ok ∧ f ≠ 0#32 ∧ d = 0#32 ∧ s.FselLegal) ∨
        (c = .recoveryFailure ∧ f = 0#32 ∧ d = distNone ∧ s.FselLegal) ∨
        (c = .invalidParameter ∧ f = 0#32 ∧ d = distNone ∧ u = s.unitA ∧ ¬ s.FselLegal)) := by
  by_cases hl : s.FselLegal
  · obtain ⟨x, hx⟩ : ∃ x, s.fselInput = some x := ⟨_, if_pos hl⟩
    simp only [State.fselUnit, hx]
    split
    · next h => exact ⟨_, _, _, _, rfl, .inl ⟨rfl, fselScan_found x _ _ h, rfl, hl⟩⟩
    · exact ⟨_, _, _, _, rfl, .inr (.inl ⟨rfl, rfl, rfl, hl⟩)⟩
  · have hx : s.fselInput = none := if_neg hl
    refine ⟨s.unitA, 0#32, distNone, .invalidParameter, ?_, .inr (.inr ⟨rfl, rfl, rfl, rfl, hl⟩)⟩
    simp only [State.fselUnit, hx, State.failSearch]
    rfl

@[simp] theorem params_fselUnit (s : State) : s.fselUnit.params = s.params := by
  obtain ⟨u, f, d, c, h, -⟩ := fselUnit_cases s
  simp [h]
@[simp] theorem glen_fselUnit (s : State) : s.fselUnit.glen = s.glen := by
  obtain ⟨u, f, d, c, h, -⟩ := fselUnit_cases s
  simp [h]
@[simp] theorem tlen_fselUnit (s : State) : s.fselUnit.tlen = s.tlen := by
  obtain ⟨u, f, d, c, h, -⟩ := fselUnit_cases s
  simp [h]
@[simp] theorem cstat_fselUnit (s : State) : s.fselUnit.cstat = s.cstat := by
  obtain ⟨u, f, d, c, h, -⟩ := fselUnit_cases s
  simp [h]
@[simp] theorem memEpoch_fselUnit (s : State) : s.fselUnit.memEpoch = s.memEpoch := by
  obtain ⟨u, f, d, c, h, -⟩ := fselUnit_cases s
  simp [h]
@[simp] theorem phase_fselUnit (s : State) : s.fselUnit.phase = s.phase := by
  obtain ⟨u, f, d, c, h, -⟩ := fselUnit_cases s
  simp [h]
@[simp] theorem pending_fselUnit (s : State) : s.fselUnit.pending = s.pending := by
  obtain ⟨u, f, d, c, h, -⟩ := fselUnit_cases s
  simp [h]
@[simp] theorem reply_fselUnit (s : State) : s.fselUnit.reply = s.reply := by
  obtain ⟨u, f, d, c, h, -⟩ := fselUnit_cases s
  simp [h]
@[simp] theorem mem_fselUnit (s : State) (sp : Space) : s.fselUnit.mem sp = s.mem sp := by
  obtain ⟨u, f, d, c, h, -⟩ := fselUnit_cases s
  simp [h]
@[simp] theorem chan_fselUnit_ne (s : State) (j : Channel) (h : j ≠ .c3) : s.fselUnit.chan j = s.chan j := by
  obtain ⟨u, f, d, c, e, -⟩ := fselUnit_cases s
  simp [e, h]

/-- The consistency search writes no register of channel 3 but the three result registers. -/
theorem chan_fselUnit_same (s : State) :
    s.fselUnit.chan .c3 =
      { s.chan .c3 with
        rfill := (s.fselUnit.chan .c3).rfill
        rdist := (s.fselUnit.chan .c3).rdist
        rstat := (s.fselUnit.chan .c3).rstat } := by
  obtain ⟨u, f, d, c, e, -⟩ := fselUnit_cases s
  simp [e]

@[simp] theorem bitAt_fselUnit (s : State) (sp : Space) (a : Nat) : s.fselUnit.bitAt sp a = s.bitAt sp a :=
  bitAt_congr (by simp) (by simp) a

/-! ### The end of a searching command -/

/-- Everything the end of a searching command can do: write CSTAT with the first failure's code and channel, or OK, and
go back to IDLE (60_exceptions.md R185). -/
theorem concludeSearch_cases (s : State) (ks : List Channel) :
    (∃ k ∈ ks, s.searchOk k = false ∧ s.concludeSearch ks = s.conclude (codeField (s.chan k).rstat) k.field) ∨
    ((∀ k ∈ ks, s.searchOk k = true) ∧ s.concludeSearch ks = s.concludeOk) := by
  unfold State.concludeSearch State.firstFailure
  split
  · next k h =>
    have h1 := List.find?_some h
    exact .inl ⟨k, List.mem_of_find?_eq_some h, by simpa using h1, rfl⟩
  · next h => exact .inr ⟨fun k hk => by simpa using List.find?_eq_none.mp h k hk, rfl⟩

end Sys2Proof.Machine
end

