-- ==== Sys2Proof/Laws/Commands.lean ====
section
/-! SUPPORT. Everything a command, a host operation and a step can do, said once each. -/

namespace Sys2Proof.Machine

theorem ofField_field (k : Channel) : Channel.ofField k.field = some k := by cases k <;> rfl

theorem ofField_eq_some {ch : BitVec 2} {k : Channel} (h : Channel.ofField ch = some k) : ch = k.field := by
  revert h
  unfold Channel.ofField
  split
  · next e => rintro ⟨⟩; exact e
  · split
    · next e => rintro ⟨⟩; exact e
    · split
      · next e => rintro ⟨⟩; exact e
      · simp

/-! ### Commands -/

/-- The condition under which `GEN k` generates: every check of R83 passes and the fill is not 0. -/
abbrev State.GenLegal (s : State) (k : Channel) : Prop :=
  s.DegreeLegal k ∧ s.MaskLegal k ∧ s.GenLengthLegal ∧ s.FillWidthLegal k ∧ (s.chan k).fill ≠ 0#32

/-- Everything `GEN k` can do (40_lfsr_generate.md R83): generate, or end with one of its two errors. -/
theorem generate_cases (s : State) (k : Channel) :
    (s.GenLegal k ∧ s.generate k = (s.generateInto k (s.chan k).fill s.glen.toNat).concludeOk) ∨
    (¬ s.GenLegal k ∧ ∃ c, (c = .invalidParameter ∨ c = .degenerateState) ∧ s.generate k = s.raise c k.field) := by
  unfold State.generate
  split
  · next h => exact .inr ⟨fun g => h g.1, _, .inl rfl, rfl⟩
  · split
    · next h => exact .inr ⟨fun g => h g.2.1, _, .inl rfl, rfl⟩
    · split
      · next h => exact .inr ⟨fun g => h g.2.2.1, _, .inl rfl, rfl⟩
      · split
        · next h => exact .inr ⟨fun g => h g.2.2.2.1, _, .inl rfl, rfl⟩
        · split
          · next h => exact .inr ⟨fun g => g.2.2.2.2 h, _, .inr rfl, rfl⟩
          · next h1 h2 h3 h4 h5 =>
            exact .inl ⟨⟨not_not.mp h1, not_not.mp h2, not_not.mp h3, not_not.mp h4, h5⟩, rfl⟩

/-- Everything the stages of `RECOVER` can do (44_recover_pipeline.md R161, R163): stop after stage 1, stop after stage 3,
or run to the end. -/
theorem recoverStages_cases (s : State) :
    (∃ k, (k = .c1 ∨ k = .c2) ∧ s.recoverSearch.searchOk k = false ∧
      s.recoverStages = s.recoverSearch.conclude (codeField (s.recoverSearch.chan k).rstat) k.field) ∨
    (s.recoverSearch.searchOk .c1 = true ∧ s.recoverSearch.searchOk .c2 = true ∧
      s.recoverSearch.recoverRegenerate.recoverSelect.searchOk .c3 = false ∧
      s.recoverStages = s.recoverSearch.recoverRegenerate.recoverSelect.conclude
        (codeField (s.recoverSearch.recoverRegenerate.recoverSelect.chan .c3).rstat) Channel.c3.field) ∨
    (s.recoverSearch.searchOk .c1 = true ∧ s.recoverSearch.searchOk .c2 = true ∧
      s.recoverSearch.recoverRegenerate.recoverSelect.searchOk .c3 = true ∧
      s.recoverStages = s.recoverSearch.recoverRegenerate.recoverSelect.recoverVerify.concludeOk) := by
  simp only [State.recoverStages, State.firstFailure]
  split
  · next k h =>
    have h1 := List.find?_some h
    have h2 := List.mem_of_find?_eq_some h
    exact .inl ⟨k, by simpa using h2, by simpa using h1, rfl⟩
  · next h =>
    have h1 := List.find?_eq_none.mp h
    have a := h1 .c1 (by simp)
    have b := h1 .c2 (by simp)
    split
    · next k h' =>
      have h2 := List.mem_of_find?_eq_some h'
      have h3 := List.find?_some h'
      have e : k = .c3 := by simpa using h2
      subst e
      exact .inr (.inl ⟨by simpa using a, by simpa using b, by simpa using h3, rfl⟩)
    · next h' =>
      have c := List.find?_eq_none.mp h' .c3 (by simp)
      exact .inr (.inr ⟨by simpa using a, by simpa using b, by simpa using c, rfl⟩)

/-! ### Host operations -/

/-- Everything a write to a register can do: answer BusError and change nothing else, run a command word, or store a
value (20_memory.md R46). -/
theorem regWrite_cases (s : State) (r : Nat) (v : Word) :
    s.regWrite r v = .next (s.setReply .busError) ∨
    (Reg.ofNumber r = some .cmd ∧ s.regWrite r v = runCommand v (s.setReply .done)) ∨
    (∃ q, Reg.ofNumber r = some q ∧ q ≠ .cmd ∧ q.readOnly = false ∧
      s.regWrite r v = .next ((s.writeReg q v).setReply .done)) := by
  unfold State.regWrite
  split
  · exact .inl rfl
  · next h => exact .inr (.inl ⟨h, rfl⟩)
  · next q hq h =>
    split
    · exact .inl rfl
    · next hr => exact .inr (.inr ⟨q, h, hq, by simpa using hr, rfl⟩)

/-- Everything a memory write can do: store one bit below the capacity, or answer BusError (20_memory.md R46). -/
theorem memWrite_cases (s : State) (space addr : Nat) (b : Bool) :
    s.memWrite space addr b = s.setReply .busError ∨
    (∃ sp, Space.ofId space = some sp ∧ addr < s.params.lmax ∧
      s.memWrite space addr b = (s.setBit sp addr b).setReply .done) := by
  unfold State.memWrite
  split
  · next sp h =>
    split
    · next ha => exact .inr ⟨sp, h, ha, rfl⟩
    · exact .inl rfl
  · exact .inl rfl

/-- A read changes nothing but the answer (20_memory.md R45). -/
theorem regRead_cases (s : State) (r : Nat) : ∃ a, s.regRead r = s.setReply a := by
  unfold State.regRead
  split <;> exact ⟨_, rfl⟩

/-- A read changes nothing but the answer (20_memory.md R45). -/
theorem memRead_cases (s : State) (space addr : Nat) : ∃ a, s.memRead space addr = s.setReply a := by
  unfold State.memRead
  split
  · split <;> exact ⟨_, rfl⟩
  · exact ⟨_, rfl⟩

/-- A host access answers a next state only while PHASE is IDLE. -/
theorem whenIdle_eq_next {s t : State} {o : Host.Outcome State Fault Refusal} (h : s.whenIdle o = .next t) :
    s.phase = .idle ∧ o = .next t := by
  unfold State.whenIdle at h
  split at h
  · next hp => exact ⟨hp, h⟩
  · cases h

/-- Everything a step that answers a next state can do: idle with nothing pending, reset, or serve a host operation while
PHASE is IDLE. -/
theorem step_cases {s t : State} (h : step s = .next t) :
    (s.pending = [] ∧ t = s) ∨
    (∃ rest, s.pending = .reset :: rest ∧ t = (s.setPending rest).applyReset) ∨
    (∃ op rest, s.pending = op :: rest ∧ op ≠ .reset ∧ s.phase = .idle ∧
      ((∃ r, op = .regRead r ∧ t = (s.setPending rest).regRead r) ∨
        (∃ r v, op = .regWrite r v ∧ (s.setPending rest).regWrite r v = .next t) ∨
        (∃ space addr, op = .memRead space addr ∧ t = (s.setPending rest).memRead space addr) ∨
        (∃ space addr b, op = .memWrite space addr b ∧ t = (s.setPending rest).memWrite space addr b))) := by
  unfold step State.serveNext at h
  split at h
  · next e => injection h with h; exact .inl ⟨e, h.symm⟩
  · next op rest e =>
    cases op with
    | reset => injection h with h; exact .inr (.inl ⟨rest, e, h.symm⟩)
    | regRead r =>
      obtain ⟨hp, h⟩ := whenIdle_eq_next h
      injection h with h
      exact .inr (.inr ⟨_, rest, e, by simp, hp, .inl ⟨r, rfl, h.symm⟩⟩)
    | regWrite r v =>
      obtain ⟨hp, h⟩ := whenIdle_eq_next h
      exact .inr (.inr ⟨_, rest, e, by simp, hp, .inr (.inl ⟨r, v, rfl, h⟩)⟩)
    | memRead space addr =>
      obtain ⟨hp, h⟩ := whenIdle_eq_next h
      injection h with h
      exact .inr (.inr ⟨_, rest, e, by simp, hp, .inr (.inr (.inl ⟨space, addr, rfl, h.symm⟩))⟩)
    | memWrite space addr b =>
      obtain ⟨hp, h⟩ := whenIdle_eq_next h
      injection h with h
      exact .inr (.inr ⟨_, rest, e, by simp, hp, .inr (.inr (.inr ⟨space, addr, b, rfl, h.symm⟩))⟩)

/-- A pending register write is served while PHASE is IDLE. -/
theorem step_regWrite {s : State} {r : Nat} {v : Word} {rest : List HostOp} (hp : s.phase = .idle)
    (h : s.pending = .regWrite r v :: rest) : step s = (s.setPending rest).regWrite r v := by
  simp [step, State.serveNext, h, State.serve, State.whenIdle, hp]

end Sys2Proof.Machine
end

