-- ==== Sys2Proof/Laws/PerInstr.lean ====
section
/-! SUPPORT. A fact about every command as syntax, one lemma per constructor: its command word has the fixed bits of its
row of spec/opcode_table.json. -/

namespace Sys2Proof.Laws

/-- The row of a command: its mask and its match value. -/
def TableRow.row : Instr → Word × Word
  | .gen _ => (0xFFFFFFCF#32, 0x00000001#32)
  | .comb => (0xFFFFFFFF#32, 0x00000002#32)
  | .corr _ => (0xFFFFFFCF#32, 0x00000003#32)
  | .corr2 => (0xFFFFFFFF#32, 0x00000004#32)
  | .fsel => (0xFFFFFFFF#32, 0x00000005#32)
  | .recover => (0xFFFFFFFF#32, 0x00000006#32)

/-- The command word of a command, under its row's mask, is its row's match value (30_encoding.md R62). -/
def TableRow.Statement (i : Instr) : Prop := encode i &&& (TableRow.row i).1 = (TableRow.row i).2

theorem TableRow.gen (ch : BitVec 2) : TableRow.Statement (.gen ch) := by
  unfold TableRow.Statement
  revert ch
  decide

theorem TableRow.comb : TableRow.Statement .comb := by
  unfold TableRow.Statement
  decide

theorem TableRow.corr (ch : BitVec 2) : TableRow.Statement (.corr ch) := by
  unfold TableRow.Statement
  revert ch
  decide

theorem TableRow.corr2 : TableRow.Statement .corr2 := by
  unfold TableRow.Statement
  decide

theorem TableRow.fsel : TableRow.Statement .fsel := by
  unfold TableRow.Statement
  decide

theorem TableRow.recover : TableRow.Statement .recover := by
  unfold TableRow.Statement
  decide

end Sys2Proof.Laws
end

