-- ==== Sys2Proof/Tests/Slice0.lean ====
section
/-! SUPPORT. The checks of the well-formedness of commands, words written out from the spec's encodings, single steps on
the spec's own vectors (95_test_vectors.md), and for every statement with hypotheses concrete values that meet them. -/

namespace Sys2Proof.Tests

open Sys2Proof.Machine

-- Many small kernel evaluations: one at a time, so that they do not need a thread each.
set_option Elab.async false

/-! ### Helpers -/

/-- A sequence written as 95_test_vectors.md writes it: the first digit is element 0. -/
def bitsOf (len digits : Nat) : List Bool := (List.range len).map fun i => digits.testBit (len - 1 - i)

/-- A memory that holds such a sequence from address 0. -/
def cells (len digits : Nat) : BitMemory := BitMemory.writeFrom [] 0 (bitsOf len digits)

/-- A channel as after reset, but for its host-written registers. -/
def channelOf (deg mask fill nreq thresh : Nat) : ChannelRegs :=
  { ChannelRegs.reset with
    deg := BitVec.ofNat 32 deg, mask := BitVec.ofNat 32 mask, fill := BitVec.ofNat 32 fill
    nreq := BitVec.ofNat 32 nreq, thresh := BitVec.ofNat 32 thresh }

/-- The state after reset with channel `k` configured for `GEN k`. -/
def genState (k : Channel) (deg mask fill glen : Nat) : State :=
  { State.reset.setChan k (channelOf deg mask fill 0 0) with glen := BitVec.ofNat 32 glen }

/-- The state after reset with channel `k` configured for `CORR k`, and a target. -/
def corrState (k : Channel) (deg mask nreq thresh tlen digits : Nat) : State :=
  { State.reset.setChan k (channelOf deg mask 0 nreq thresh) with
    tlen := BitVec.ofNat 32 tlen, tgt := cells tlen digits }

/-- The state after reset with channel 3 configured for `FSEL`, the X and Y sequences, and a target. -/
def fselState (deg mask tlen xs ys digits : Nat) : State :=
  { State.reset with
    ch3 := channelOf deg mask 0 0 0, tlen := BitVec.ofNat 32 tlen
    seq1 := cells tlen xs, seq2 := cells tlen ys, tgt := cells tlen digits }

/-- The setup of program P4. -/
def p4 : State :=
  { State.reset with
    ch1 := channelOf 3 0b011 0 16 4, ch2 := channelOf 4 0b0011 0 16 6, ch3 := channelOf 3 0b101 0 0 0
    tlen := 24, tgt := cells 24 0b100110010111001001110101 }

/-- The setup of program P6(b): the target of P4 with element 5 flipped. -/
def p6b : State := { p4 with tgt := cells 24 0b100111010111001001110101 }

/-- The setup of P4 with the threshold of channel 2 at 5, as in V30 and P6(a). -/
def p4Fails : State := { p4 with ch2 := channelOf 4 0b0011 0 16 5 }

/-- The setup of P6(d): two illegal channels, and a result left in channel 1 by an earlier `CORR 1`. -/
def p6d : State :=
  { p4 with
    ch1 := { channelOf 3 0b011 0 16 4 with rfill := 5, rdist := 1, rstat := 1 }
    ch2 := channelOf 1 0b0011 0 16 6, ch3 := channelOf 3 0 0 0 0 }

/-- One step on a command word, as the step fetches it. -/
def runWord (s : State) (w : Nat) : Host.Outcome State Fault Refusal := step (s.withFetchWord 32 w)

/-- One step on a host operation. -/
def serveOne (s : State) (op : HostOp) : Host.Outcome State Fault Refusal := step { s with pending := [op] }

/-- What is seen of a next state; nothing where the step stopped. -/
def seen {α : Type} (o : Host.Outcome State Fault Refusal) (f : State → α) : Option α :=
  match o with
  | .next t => some (f t)
  | .fault _ => none
  | .refused _ => none

/-- The state a step left, or the state it started from where it stopped. -/
def afterwards (s : State) (o : Host.Outcome State Fault Refusal) : State := (seen o id).getD s

/-- The result registers of a channel. -/
def result (c : ChannelRegs) : Nat × Nat × Nat := (c.rfill.toNat, c.rdist.toNat, c.rstat.toNat)

/-! ### Well-formedness -/

theorem test_gen_needs_a_channel : ¬ (Instr.gen 0#2).WellFormed := by decide
theorem test_corr_needs_a_channel : ¬ (Instr.corr 0#2).WellFormed := by decide
theorem test_gen_takes_channel_3 : (Instr.gen 3#2).WellFormed := by decide

/-! ### Decoding: the words of 30_encoding.md R62, bit by bit (ZERO, CH, OP) -/

theorem test_decode_gen : decode (0b00000000000000000000000000#26 ++ 0b11#2 ++ 0b0001#4) = .ok (.gen 3#2) := by decide
theorem test_decode_comb : decode (0b00000000000000000000000000#26 ++ 0b00#2 ++ 0b0010#4) = .ok .comb := by decide
theorem test_decode_corr : decode (0b00000000000000000000000000#26 ++ 0b10#2 ++ 0b0011#4) = .ok (.corr 2#2) := by decide
theorem test_decode_corr2 : decode (0b00000000000000000000000000#26 ++ 0b00#2 ++ 0b0100#4) = .ok .corr2 := by decide
theorem test_decode_fsel : decode (0b00000000000000000000000000#26 ++ 0b00#2 ++ 0b0101#4) = .ok .fsel := by decide
theorem test_decode_recover : decode (0b00000000000000000000000000#26 ++ 0b00#2 ++ 0b0110#4) = .ok .recover := by decide

/-- V35: some words of each kind that no command has. -/
theorem test_decode_refuses : ∀ w ∈ [0x00000000, 0x00000001, 0x00000003, 0x00000012, 0x00000014,
    0x00000025, 0x00000036, 0x00000007, 0x0000001F, 0x00000010, 0x00000041, 0x80000011,
    0xFFFFFFFF], decodeTableWord 32 w = none := by decide +kernel

theorem test_table_word_gen_2 : decodeTableWord 32 0x21 = some (.gen 2#2) := by decide

/-! ### One step per command, on the spec's vectors -/

/-- V6. -/
theorem test_gen_writes_sequence_and_fill :
    seen (runWord (genState .c3 3 0b101 1 12) 0x31) (fun t => (t.readSeq (.seq .c3) 12, t.ch3.fill, t.cstat)) =
      some (bitsOf 12 0b100111010011, 5#32, 0x01#32) := by decide +kernel

/-- V15: the fill has bit 3 set and the degree is 3. -/
theorem test_gen_fill_too_wide :
    seen (runWord (genState .c3 3 0b011 8 4) 0x31) (fun t => (t.ch3.fill, t.cstat, t.seq3)) =
      some (8#32, 0x33#32, []) := by decide +kernel

/-- V20: the truth table of R101. -/
theorem test_comb_truth_table :
    seen (runWord { State.reset with
      glen := 8, seq1 := cells 8 0b00001111, seq2 := cells 8 0b00110011, seq3 := cells 8 0b01010101 } 0x02)
      (fun t => (t.readSeq .out 8, t.cstat)) = some (bitsOf 8 0b00100111, 0x01#32) := by decide +kernel

/-- V21a: the length is one more than LMAX. -/
theorem test_comb_too_long :
    seen (runWord { State.reset with glen := 65537 } 0x02) (fun t => (t.out, t.cstat)) = some ([], 0x03#32) := by
  decide +kernel

/-- V25: of two candidates at distance 0 the lower index wins. -/
theorem test_corr_tie :
    seen (runWord (corrState .c1 3 0b011 2 1 2 0b11) 0x13) (fun t => (result t.ch1, t.cstat)) =
      some ((7, 0, 1), 0x01#32) := by decide +kernel

/-- V25, step by step: J before each of the eight steps and after the last (10_state.md R28: one up, never to 2^n), and the
distance each step scores. -/
theorem test_sequencer_steps :
    ((corrState .c1 3 0b011 2 1 2 0b11).corrInput .c1).map (fun x =>
        ((List.range 9).map (fun i => ((corrStep x)^[i] SearchUnit.reset.start).j.toNat),
          (List.range 8).map (fun i => ((corrStep x)^[i + 1] SearchUnit.reset.start).r.toNat))) =
      some ([0, 1, 2, 3, 4, 5, 6, 7, 7], [1, 2, 1, 1, 1, 0, 0, 1]) := by decide +kernel

/-- V27: a zero candidate at distance 0 is not accepted. -/
theorem test_corr_zero_candidate :
    seen (runWord (corrState .c1 3 0b110 4 1 4 0b0000) 0x13) (fun t => (result t.ch1, t.cstat)) =
      some ((0, 0xFFFFFFFF, 2), 0x12#32) := by decide +kernel

/-- V30, first part: the second search fails at the strict threshold. -/
theorem test_corr2_second_fails :
    seen (runWord p4Fails 0x04) (fun t => (result t.ch1, result t.ch2, result t.ch3, t.cstat)) =
      some ((5, 1, 1), (0, 0xFFFFFFFF, 2), (0, 0xFFFFFFFF, 0), 0x22#32) := by decide +kernel

/-- V30, last part: channel 1 is searched although channel 2 is illegal. -/
theorem test_corr2_second_illegal :
    seen (runWord { p4 with ch2 := channelOf 1 0b0011 0 16 6 } 0x04) (fun t => (result t.ch1, result t.ch2, t.cstat)) =
      some ((5, 1, 1), (0, 0xFFFFFFFF, 3), 0x23#32) := by decide +kernel

/-- V31. -/
theorem test_fsel_first_match :
    seen (runWord (fselState 3 0b101 6 0b101100 0b010011 0b001110) 0x05) (fun t => (result t.ch3, t.cstat)) =
      some ((6, 0, 1), 0x01#32) := by decide +kernel

/-- V33: no candidate matches, and the answer is not candidate 0. -/
theorem test_fsel_impossible :
    seen (runWord (fselState 3 0b101 4 0b1011 0b1011 0b1010) 0x05) (fun t => (result t.ch3, t.cstat)) =
      some ((0, 0xFFFFFFFF, 2), 0x32#32) := by decide +kernel

/-- P4. -/
theorem test_recover_toy :
    seen (runWord p4 0x06) (fun t => ([result t.ch1, result t.ch2, result t.ch3],
      [t.ch1.fill.toNat, t.ch2.fill.toNat, t.ch3.fill.toNat], t.readSeq .out 24 == t.readSeq .tgt 24, t.cstat)) =
      some ([(5, 1, 1), (9, 5, 1), (3, 0, 1)], [3, 7, 1], true, 0x01#32) := by decide +kernel

/-- P6(d). -/
theorem test_recover_checks_first :
    seen (runWord p6d 0x06) (fun t => ([result t.ch1, result t.ch2, result t.ch3], t.cstat)) =
      some ([(0, 0xFFFFFFFF, 0), (0, 0xFFFFFFFF, 3), (0, 0xFFFFFFFF, 3)], 0x23#32) := by decide +kernel

/-- V35: an illegal word writes only CSTAT. -/
theorem test_illegal_word :
    seen (runWord p4 0x12) (fun t => (t.cstat, t.ch1, t.tgt, t.reply)) =
      some (0x05#32, p4.ch1, p4.tgt, .done) := by decide +kernel

/-! ### Host operations (V36, V37) -/

theorem test_write_read_only : seen (serveOne p4 (.regWrite 0x15 7)) (fun t => (t.reply, t.ch1)) =
    some (.busError, p4.ch1) := by decide
theorem test_read_unmapped : seen (serveOne p4 (.regRead 0x18)) State.reply = some .busError := by decide
theorem test_read_cmd : seen (serveOne p4 (.regRead 0)) State.reply = some (.word 0) := by decide
theorem test_write_unchecked : seen (serveOne p4 (.regWrite 0x10 0xFFFFFFFF#32)) (fun t => t.ch1.deg) =
    some 0xFFFFFFFF#32 := by decide
theorem test_memory_capacity : seen (serveOne p4 (.memWrite 4 65536 false)) (fun t => (t.reply, t.out)) =
    some (.busError, []) := by decide +kernel
theorem test_memory_last_element : seen (serveOne p4 (.memWrite 4 65535 true)) (fun t => t.bitAt .out 65535) =
    some true := by decide +kernel
theorem test_no_space_7 : seen (serveOne p4 (.memRead 7 0)) State.reply = some .busError := by decide
theorem test_reset_distance : seen (serveOne State.reset (.regRead 0x36)) State.reply =
    some (.word 0xFFFFFFFF#32) := by decide

/-! ### Values that meet the hypotheses of the statements -/

theorem witness_StepRunsTheDecodedCommand :
    State.reset.phase = .idle ∧ { State.reset with pending := [.regWrite 0 0x21#32] }.pending = [.regWrite 0 0x21#32] ∧
      decode 0x21#32 = .ok (.gen 2#2) := by decide

theorem witness_IllegalWordWritesOnlyCstat :
    (∀ w ∈ [0x00000000#32, 0x00000001#32, 0x00000007#32, 0x00000041#32, 0xFFFFFFFF#32], w ∉ legalWords) ∧
      p4.phase = .idle := by
  refine ⟨?_, rfl⟩
  simp [legalWords]

theorem witness_LfsrStepShiftsAndFeedsParity :
    (2 ≤ 2 ∧ 2 ≤ 32 ∧ (3#32).toNat < 2 ^ 2 ∧ (2#32).toNat < 2 ^ 2) ∧
      (2 ≤ 32 ∧ 32 ≤ 32 ∧ (0xFFFFFFFF#32).toNat < 2 ^ 32 ∧ (0x80000001#32).toNat < 2 ^ 32) := by decide

theorem witness_LfsrStepWidthZeroAndBijection :
    0 < (0b01#32).toNat ∧ (0b01#32).toNat < 2 ^ 2 ∧ (0b01#32).getLsbD 0 = true ∧
      0 < (0x80000000#32).toNat ∧ (0x80000000#32).toNat < 2 ^ 32 ∧ (0x80000000#32).getLsbD 0 = false := by decide

theorem witness_WindowOfOutputIsTheState :
    2 ≤ 3 ∧ 3 ≤ 32 ∧ (0b110#32).toNat < 2 ^ 3 ∧ (0b111#32).toNat < 2 ^ 3 := by decide

theorem witness_OutputSatisfiesTheRecurrence :
    2 ≤ 32 ∧ 32 ≤ 32 ∧ (0#32).toNat < 2 ^ 32 ∧ (0xFFFFFFFF#32).toNat < 2 ^ 32 := by decide

theorem witness_CoveringMaskHasFullPeriod :
    0 < (0b11#32).toNat ∧ (0b11#32).toNat < 2 ^ 2 ∧
      ∀ f : Word, f ≠ 0#32 → f.toNat < 2 ^ 2 → ∃ j, j < 2 ^ 2 - 1 ∧ runState 2 0b11#32 j = f := by
  refine ⟨by decide, by decide, fun f h0 h => ?_⟩
  have hf : f = 1#32 ∨ f = 2#32 ∨ f = 3#32 := by bv_omega
  rcases hf with rfl | rfl | rfl
  · exact ⟨0, by decide, by decide +kernel⟩
  · exact ⟨1, by decide, by decide +kernel⟩
  · exact ⟨2, by decide, by decide +kernel⟩

/-- Lengths 0, 12 and LMAX. -/
theorem witness_GenerateWritesSequenceAndFill :
    ∀ len ∈ [0, 12, 65536], GenerateLegal (genState .c3 3 0b101 1 len) .c3 ∧
      ((genState .c3 3 0b101 1 len).chan .c3).fill ≠ 0#32 := by
  simp only [GenerateLegal, LfsrLegal]
  decide +kernel

/-- Degrees 1 and 33, masks 0 and 8, length LMAX + 1, fill 8. -/
theorem witness_GenerateErrors_illegal :
    ∀ s ∈ [genState .c1 1 1 1 4, genState .c1 33 3 1 4, genState .c1 3 0 1 4, genState .c1 3 8 1 4,
      genState .c1 3 3 1 65537, genState .c1 3 3 8 4], ¬ GenerateLegal s .c1 := by
  simp only [GenerateLegal, LfsrLegal]
  decide +kernel

theorem witness_GenerateErrors_degenerate :
    GenerateLegal (genState .c1 3 3 0 0) .c1 ∧ ((genState .c1 3 3 0 0).chan .c1).fill = 0#32 := by
  simp only [GenerateLegal, LfsrLegal]
  decide +kernel

theorem witness_SecondGenerateContinues :
    (genState .c1 4 3 1 6).params.Legal ∧ GenerateLegal (genState .c1 4 3 1 6) .c1 ∧
      ((genState .c1 4 3 1 6).chan .c1).fill ≠ 0#32 ∧ ((genState .c1 4 3 1 6).chan .c1).mask.getLsbD 0 = true := by
  simp only [GenerateLegal, LfsrLegal]
  decide +kernel

theorem witness_CombineWritesOut :
    { State.reset with glen := 65536 }.glen.toNat ≤ State.reset.params.lmax ∧
      State.reset.params.lmax < { State.reset with glen := 65537 }.glen.toNat := by decide

/-- The last index of the run of a search with n = 2 and a prefix of 1, and with a prefix of 4. -/
theorem witness_RunBufferHoldsTrueRunBits : 5 < 2 ^ 2 + max 1 2 ∧ 7 < 2 ^ 2 + max 4 2 := by decide

/-- A search at the last candidate index, and at the index one past it. -/
theorem witness_TrackedCandidateIsTheRunState :
    (corrState .c1 3 3 6 3 8 0b01010010).params.Legal ∧
      ((corrState .c1 3 3 6 3 8 0b01010010).corrInput .c1).isSome = true ∧
      8 ≤ 2 ^ ((corrState .c1 3 3 6 3 8 0b01010010).chan .c1).deg.toNat := by decide +kernel

theorem witness_HammingUnitComputesDistance :
    ((corrState .c1 3 3 8 9 8 0b01010010).corrInput .c1).isSome = true ∧
      7 < 2 ^ ((corrState .c1 3 3 8 9 8 0b01010010).chan .c1).deg.toNat := by decide +kernel

/-- V25: the first of the two candidates at distance 0 is the winner. -/
theorem witness_CorrelateFindsTheWinner_found :
    (corrState .c1 3 3 2 1 2 0b11).params.Legal ∧ CorrelateLegal (corrState .c1 3 3 2 1 2 0b11) .c1 ∧
      Winner (corrState .c1 3 3 2 1 2 0b11) .c1 5 := by
  simp only [CorrelateLegal, LfsrLegal, Winner, Acceptable, candidate, distance]
  decide +kernel

/-- V22 with THRESH = 1, the minimum distance. -/
theorem witness_CorrelateFindsTheWinner_none :
    CorrelateLegal (corrState .c1 3 3 6 1 8 0b01010010) .c1 ∧
      ∀ j, j < 2 ^ ((corrState .c1 3 3 6 1 8 0b01010010).chan .c1).deg.toNat →
        ¬ Acceptable (corrState .c1 3 3 6 1 8 0b01010010) .c1 j := by
  simp only [CorrelateLegal, LfsrLegal, Acceptable, candidate, distance]
  decide +kernel

/-- V28. -/
theorem witness_CorrelateRejectsIllegalParameters :
    ∀ s ∈ [corrState .c2 1 3 6 3 8 0, corrState .c2 0 3 6 3 8 0, corrState .c2 4 0 6 3 8 0, corrState .c2 4 16 6 3 8 0,
      corrState .c2 4 3 6 3 0 0, corrState .c2 4 3 9 3 8 0, corrState .c2 4 3 0 3 8 0,
      { corrState .c2 4 3 6 3 8 0 with tlen := 65537 }], ¬ CorrelateLegal s .c2 := by
  simp only [CorrelateLegal, LfsrLegal]
  decide +kernel

theorem witness_ZeroThresholdAlwaysFails :
    CorrelateLegal (corrState .c3 3 3 6 0 8 0b01010010) .c3 ∧
      ((corrState .c3 3 3 6 0 8 0b01010010).chan .c3).thresh = 0#32 := by
  simp only [CorrelateLegal, LfsrLegal]
  decide +kernel

theorem witness_LastCandidateRepeatsAnEarlierOne :
    (2 ≤ 2 ∧ 2 ≤ 32 ∧ 0 < (2#32).toNat ∧ (2#32).toNat < 2 ^ 2) ∧
      (2 ≤ 32 ∧ 32 ≤ 32 ∧ 0 < (0xFFFFFFFF#32).toNat ∧ (0xFFFFFFFF#32).toNat < 2 ^ 32) := by decide

theorem witness_ScanWithoutLastCandidateAgrees :
    (corrState .c2 3 0b110 4 5 4 0).params.Legal ∧ ((corrState .c2 3 0b110 4 5 4 0).corrInput .c2).isSome = true := by
  decide +kernel

/-- P4, whose two searches both have a winner. -/
theorem witness_DualSearchFindsBothWinners :
    p4.params.Legal ∧ CorrelateLegal p4 .c1 ∧ CorrelateLegal p4 .c2 ∧ Winner p4 .c1 3 ∧ Winner p4 .c2 4 := by
  simp only [CorrelateLegal, LfsrLegal, Winner, Acceptable, candidate, distance]
  decide +kernel

/-- The steps of the two units in turn, unit A's eight done first in the second half of unit B's sixteen. -/
theorem witness_EveryInterleaving_both :
    let events := (List.range 16).flatMap fun i => if 8 ≤ i then [UnitId.b, .a] else [.b]
    events.count .a = corrStepCount (p4.corrInput .c1) ∧ events.count .b = corrStepCount (p4.corrInput .c2) := by
  decide +kernel

/-- Both searches fail their checks: neither unit steps. -/
theorem witness_EveryInterleaving_none :
    [].count UnitId.a = corrStepCount (State.reset.corrInput .c1) ∧
      [].count UnitId.b = corrStepCount (State.reset.corrInput .c2) := by
  decide +kernel

/-- V31. -/
theorem witness_SelectFindsTheFirstConsistent_found :
    let s := fselState 3 0b101 6 0b101100 0b010011 0b001110
    s.params.Legal ∧ SelectLegal s ∧ FirstConsistent s (s.bitAt (.seq .c1)) (s.bitAt (.seq .c2)) 2 := by
  simp only [SelectLegal, LfsrLegal, FirstConsistent, Consistent, candidate]
  decide +kernel

/-- V33. -/
theorem witness_SelectFindsTheFirstConsistent_none :
    let s := fselState 3 0b101 4 0b1011 0b1011 0b1010
    SelectLegal s ∧ ∀ j, j < 2 ^ s.ch3.deg.toNat → ¬ Consistent s (s.bitAt (.seq .c1)) (s.bitAt (.seq .c2)) j := by
  simp only [SelectLegal, LfsrLegal, Consistent, candidate]
  decide +kernel

/-- V34. -/
theorem witness_SelectRejectsIllegalParameters :
    ∀ s ∈ [fselState 1 0b101 4 0 0 0, fselState 3 0 4 0 0 0, fselState 3 8 4 0 0 0, fselState 3 0b101 0 0 0 0,
      { fselState 3 0b101 4 0 0 0 with tlen := 65537 }], ¬ SelectLegal s := by
  simp only [SelectLegal, LfsrLegal]
  decide +kernel

/-- V31, then the selector sequence in SEQ[3]. -/
theorem witness_SelectedStateRegeneratesTheTarget :
    let s := fselState 3 0b101 6 0b101100 0b010011 0b001110
    let t := afterwards s (exec .fsel s)
    let u := { t with glen := t.tlen, seq3 := cells 6 0b011101 }
    s.params.Legal ∧ seen (exec .fsel s) id = some t ∧ t.ch3.rstat = 1#32 ∧ u.params = s.params ∧
      ∀ a, a < t.tlen.toNat →
        u.bitAt (.seq .c1) a = t.bitAt (.seq .c1) a ∧ u.bitAt (.seq .c2) a = t.bitAt (.seq .c2) a ∧
          (lfsrGen t.ch3.deg.toNat t.ch3.mask t.ch3.rfill t.tlen.toNat).1[a]? = some (u.bitAt (.seq .c3) a) := by
  decide +kernel

/-- P6(d): channel 2 is the lowest that fails its checks. -/
theorem witness_RecoverChecksAllChannelsFirst :
    ¬ RecoverLegal p6d .c2 ∧ RecoverLegal p6d .c1 ∧ ¬ RecoverLegal p6d .c3 ∧
      ∀ j, channelNumber j < channelNumber .c2 → RecoverLegal p6d j := by
  have h : RecoverLegal p6d .c1 := by
    simp only [RecoverLegal, CorrelateLegal, LfsrLegal]
    decide +kernel
  refine ⟨?_, h, ?_, ?_⟩
  · simp only [RecoverLegal, CorrelateLegal, LfsrLegal]
    decide +kernel
  · simp only [RecoverLegal, SelectLegal, LfsrLegal]
    decide +kernel
  · intro j hj
    cases j
    · exact h
    · exact absurd hj (by decide)
    · exact absurd hj (by decide)

/-- The first and the last channel as the lowest illegal one. -/
theorem witness_RecoverChecksAllChannelsFirst_ends :
    ¬ RecoverLegal State.reset .c1 ∧
      ¬ RecoverLegal { p4 with ch3 := channelOf 3 0 0 0 0 } .c3 ∧
      RecoverLegal { p4 with ch3 := channelOf 3 0 0 0 0 } .c1 ∧ RecoverLegal { p4 with ch3 := channelOf 3 0 0 0 0 } .c2 := by
  simp only [RecoverLegal, CorrelateLegal, SelectLegal, LfsrLegal]
  decide +kernel

/-- Every channel of P4 passes its checks; so does every channel of P6(b) and of P6(a). -/
theorem witness_recoverLegal : ∀ s ∈ [p4, p6b, p4Fails], s.params.Legal ∧ ∀ k, RecoverLegal s k := by
  have h : ∀ s ∈ [p4, p6b, p4Fails], s.params.Legal ∧
      (RecoverLegal s .c1 ∧ RecoverLegal s .c2 ∧ RecoverLegal s .c3) := by
    simp only [RecoverLegal, CorrelateLegal, SelectLegal, LfsrLegal]
    decide +kernel
  intro s hs
  obtain ⟨hp, h1, h2, h3⟩ := h s hs
  exact ⟨hp, fun k => by cases k <;> assumption⟩

/-- P6(a): the correlation stage fails on channel 2 only. -/
theorem witness_RecoverStopsAfterFailedCorrelation :
    seen (exec .corr2 p4Fails) (fun c => (c.ch1.rstat, c.ch2.rstat)) = some (1#32, 2#32) := by decide +kernel

/-- P6(b): the winners of channels 1 and 2. -/
theorem witness_RecoverStopsAfterFailedSelection_winners : Winner p6b .c1 3 ∧ Winner p6b .c2 3 := by
  simp only [Winner, Acceptable, candidate, distance]
  decide +kernel

/-- P6(b): no selector state is consistent with the sequences those winners generate. -/
theorem witness_RecoverStopsAfterFailedSelection_none :
    ∀ j, j < 2 ^ p6b.ch3.deg.toNat →
      ¬ Consistent p6b (fun i => runBit p6b.ch1.deg.toNat p6b.ch1.mask (3 + i))
        (fun i => runBit p6b.ch2.deg.toNat p6b.ch2.mask (3 + i)) j := by
  simp only [Consistent, candidate]
  decide +kernel

/-- P4: the winners of channels 1 and 2. -/
theorem witness_RecoverFindsTheThreeStates_winners : Winner p4 .c1 3 ∧ Winner p4 .c2 4 := by
  simp only [Winner, Acceptable, candidate, distance]
  decide +kernel

/-- P4: the first selector state consistent with the sequences those winners generate. -/
theorem witness_RecoverFindsTheThreeStates_first :
    FirstConsistent p4 (fun i => runBit p4.ch1.deg.toNat p4.ch1.mask (3 + i))
      (fun i => runBit p4.ch2.deg.toNat p4.ch2.mask (4 + i)) 4 := by
  simp only [FirstConsistent, Consistent, candidate]
  decide +kernel

theorem witness_RecoverOkReproducesTheTarget :
    p4.params.Legal ∧ seen (exec .recover p4) State.cstat = some (statusWord 1 0) := by decide +kernel

/-- The correlation stage of P4 succeeds, that of P6(a) fails. -/
theorem witness_RecoverEqualsTheHostIssuedStages :
    seen (exec .recover p4) (fun t => (t.ch1.rstat, t.ch2.rstat)) = some (1#32, 1#32) ∧
      seen (exec .recover p4Fails) (fun t => (t.ch1.rstat, t.ch2.rstat)) = some (1#32, 2#32) := by decide +kernel

/-- The element just past the last one a command writes, and TGT. -/
theorem witness_CommandsWriteOnlyListedElements :
    ¬ MayWrite .comb { State.reset with glen := 8 } .out 8 ∧ ¬ MayWrite .recover p4 .tgt 0 ∧
      MayWrite .recover p4 .out 23 ∧ ¬ MayWrite .recover p4 .out 24 := by
  have h : State.reset.tlen.toNat = 0 ∧ p4.tlen.toNat = 24 := by decide
  refine ⟨?_, ?_, .inr (.inr ⟨rfl, by simp, by omega⟩), ?_⟩
  · rintro (⟨k, e, -⟩ | ⟨-, -, l⟩ | ⟨e, -⟩)
    · cases e
    · exact absurd l (by decide)
    · cases e
  · rintro (⟨k, e, -⟩ | ⟨e, -⟩ | ⟨-, e, -⟩)
    · cases e
    · cases e
    · exact e rfl
  · rintro (⟨k, e, -⟩ | ⟨e, -⟩ | ⟨-, -, l⟩)
    · cases e
    · cases e
    · omega

/-- GEN 3 changes FILL[3]. -/
theorem witness_FillChangesOnlyByItsOwnCommands :
    seen (exec (.gen 3#2) (genState .c3 3 0b101 1 12)) (fun t => (t.chan .c3).fill) = some 5#32 ∧
      ((genState .c3 3 0b101 1 12).chan .c3).fill = 1#32 := by decide +kernel

/-- P6(b), which stops after stage 3: the last clause of SameWritten, from two states that differ in the outcome and the fill
an earlier command left. -/
theorem witness_OperandsDetermineWhatIsWritten_stage3 :
    let s := { p6b with cstat := 1, ch1 := { p6b.ch1 with fill := 5 } }
    SameOperands .recover p6b s ∧ seen (exec .recover p6b) State.cstat = some (statusWord 2 3) ∧
      seen (exec .recover s) State.cstat = some (statusWord 2 3) := by
  refine ⟨⟨rfl, rfl, fun k => ?_, fun k _ => ?_, fun _ _ => rfl⟩, by decide +kernel, by decide +kernel⟩ <;>
    cases k <;> exact ⟨rfl, rfl⟩

/-- Two states that differ in an earlier outcome, in the scratch of an earlier search, in results, and in the threshold of
channel 3, which none of these commands uses. -/
theorem witness_OperandsDetermineWhatIsWritten :
    ∀ i ∈ [Instr.gen 1#2, .gen 3#2, .comb, .corr 2#2, .corr2, .fsel, .recover],
      SameOperands i p4 { p4 with
        cstat := 0x22, unitA := { p4.unitA with r := 7 }, ch3 := { p4.ch3 with rfill := 9, rstat := 1, thresh := 5 } } := by
  intro i hi
  fin_cases hi <;> refine ⟨rfl, ?_⟩
  · exact ⟨rfl, fun k _ => by cases k <;> exact ⟨rfl, rfl, rfl⟩⟩
  · exact ⟨rfl, fun k _ => by cases k <;> exact ⟨rfl, rfl, rfl⟩⟩
  · exact ⟨rfl, fun k a _ => by cases k <;> rfl⟩
  · refine ⟨rfl, fun k hk => ?_⟩
    cases k
    · exact absurd hk (by decide)
    · exact ⟨rfl, rfl, rfl, rfl, fun a _ => rfl⟩
    · exact absurd hk (by decide)
  · refine ⟨rfl, fun k hk => ?_⟩
    cases k
    · exact ⟨rfl, rfl, rfl, rfl, fun a _ => rfl⟩
    · exact ⟨rfl, rfl, rfl, rfl, fun a _ => rfl⟩
    · exact absurd rfl hk
  · exact ⟨rfl, rfl, rfl, fun sp a _ _ => by rcases sp with _ | (_ | _ | _) | _ <;> rfl⟩
  · refine ⟨rfl, fun k => by cases k <;> exact ⟨rfl, rfl⟩, fun k hk => ?_, fun a _ => rfl⟩
    cases k
    · exact ⟨rfl, rfl⟩
    · exact ⟨rfl, rfl⟩
    · exact absurd rfl hk

/-- P6(a) is a command that does not end OK. -/
theorem witness_FailedCommandFailsAgain :
    p4Fails.params.Legal ∧ seen (exec .recover p4Fails) (fun t => t.cstat.extractLsb' 0 4) = some 2#4 := by
  decide +kernel

/-- The host's operations at the ends of their ranges: the first and last writable number, read-only and unmapped ones, the
last element of OUT and the address past it, and the spaces 4 and 5. -/
theorem witness_hostOperations :
    p4.phase = .idle ∧ 0x02 ∈ writableNumbers ∧ 0x34 ∈ writableNumbers ∧
      (∀ r ∈ [0x01, 0x04, 0x15, 0x35, 0x37, 0x38], r ≠ 0 ∧ r ∉ writableNumbers) ∧
      65535 < p4.params.lmax ∧ p4.params.lmax ≤ 65536 ∧ 4 < 5 ∧
      (4, Space.out) ∈ [(0, Space.tgt), (1, .seq .c1), (2, .seq .c2), (3, .seq .c3), (4, .out)] := by decide +kernel

theorem witness_pendingOperations :
    { p4 with pending := [.regRead 0x36] }.pending = [.regRead 0x36] ∧
      { p4 with pending := [.regWrite 0x34 5] }.pending = [.regWrite 0x34 5] ∧
      { p4 with pending := [.memRead 4 65535] }.pending = [.memRead 4 65535] ∧
      { p4 with pending := [.memWrite 5 0 true] }.pending = [.memWrite 5 0 true] ∧
      { p4 with pending := [.reset] }.pending = [.reset] ∧ p4.pending = [] := by decide

theorem witness_UnconfiguredCommandsFailFast :
    (∀ k, (State.reset.chan k).deg = 0#32) ∧ State.reset.glen = 0#32 := by
  exact ⟨fun k => by cases k <;> rfl, rfl⟩

/-- The setup of P6(d), with its target and an earlier result, meets the invariant. -/
theorem witness_EveryStepKeepsTheInvariant : p6d.Invariant where
  params := by decide
  phase := rfl
  cstat := by
    unfold CstatLegal
    decide
  rstat k := by
    unfold RstatLegal
    cases k <;> decide
  results k := by
    unfold ResultCoherent
    cases k <;> decide
  memories sp := by
    unfold MemoryLegal
    rcases sp with _ | (_ | _ | _) | _ <;> decide +kernel

end Sys2Proof.Tests
end

section
/-! SUPPORT. What each command writes is a function of the operands its rule lists: the facts, operation by operation,
and then the statement OperandsDetermineWhatIsWritten (00_scope.md R8, 60_exceptions.md R187). -/

namespace Sys2Proof.Machine

/-! ### Status words and channel fields -/

theorem codeField_cstatWord (c : BitVec 4) (b : BitVec 2) : codeField (cstatWord c b) = c := by
  revert c b
  decide

theorem blameField_cstatWord (c : BitVec 4) (b : BitVec 2) : blameField (cstatWord c b) = b := by
  revert c b
  decide

theorem statusWord_one_zero : statusWord 1 0 = cstatWord Code.ok.bits 0#2 := rfl

theorem statusWord_two_three :
    statusWord 2 3 = cstatWord Code.recoveryFailure.bits Channel.c3.field := rfl

/-- A status word determines its code and the channel it blames. -/
theorem cstatWord_inj {c d : BitVec 4} {a b : BitVec 2} (h : cstatWord c a = cstatWord d b) : c = d ∧ a = b :=
  ⟨by rw [← codeField_cstatWord c a, h, codeField_cstatWord],
    by rw [← blameField_cstatWord c a, h, blameField_cstatWord]⟩

theorem field_inj {j k : Channel} (h : j.field = k.field) : j = k :=
  Option.some_injective _ (by rw [← ofField_field j, h, ofField_field])

theorem field_ne_zero (k : Channel) : k.field ≠ 0#2 := by cases k <;> decide

theorem ne_field_of_ofField_eq_none {ch : BitVec 2} (h : Channel.ofField ch = none) (k : Channel) : ch ≠ k.field := by
  rintro rfl
  simp [ofField_field] at h

/-- INVALID_PARAMETER is neither OK nor RECOVERY_FAILURE. -/
theorem cstatWord_invalidParameter_ne (b : BitVec 2) :
    cstatWord Code.invalidParameter.bits b ≠ statusWord 1 0 ∧
      cstatWord Code.invalidParameter.bits b ≠ statusWord 2 3 := by
  rw [statusWord_one_zero, statusWord_two_three]
  exact ⟨fun h => absurd (cstatWord_inj h).1 (by decide), fun h => absurd (cstatWord_inj h).1 (by decide)⟩

/-- A status that blames a channel is not OK: OK blames none. -/
theorem cstatWord_field_ne_ok (c : BitVec 4) (k : Channel) : cstatWord c k.field ≠ statusWord 1 0 :=
  fun h => field_ne_zero k (cstatWord_inj (h.trans statusWord_one_zero)).2

/-- A status that blames channel 1 or 2 is not that of a `RECOVER` stopped after stage 3. -/
theorem cstatWord_field_ne_stage3 (c : BitVec 4) {k : Channel} (hk : k ≠ .c3) :
    cstatWord c k.field ≠ statusWord 2 3 :=
  fun h => hk (field_inj (cstatWord_inj (h.trans statusWord_two_three)).2)

/-! ### Reading equal bits -/

@[simp] theorem bitAt_conclude (s : State) (c : BitVec 4) (b : BitVec 2) (sp : Space) (a : Nat) :
    (s.conclude c b).bitAt sp a = s.bitAt sp a := bitAt_congr (by simp) (by simp) a

@[simp] theorem bitAt_concludeOk (s : State) (sp : Space) (a : Nat) :
    s.concludeOk.bitAt sp a = s.bitAt sp a := bitAt_conclude s _ _ sp a

theorem readSeq_eq_of_bitAt_eq {s t : State} {sp : Space} {len : Nat}
    (h : ∀ a, a < len → s.bitAt sp a = t.bitAt sp a) : s.readSeq sp len = t.readSeq sp len :=
  List.map_congr_left fun a ha => h a (List.mem_range.mp ha)

/-! ### The parameter checks -/

theorem degreeLegal_iff_of_eq {s t : State} {k : Channel} (hp : s.params = t.params)
    (hd : (s.chan k).deg = (t.chan k).deg) : s.DegreeLegal k ↔ t.DegreeLegal k := by
  simp only [State.DegreeLegal, State.degree, hp, hd]

theorem maskLegal_iff_of_eq {s t : State} {k : Channel} (hd : (s.chan k).deg = (t.chan k).deg)
    (hm : (s.chan k).mask = (t.chan k).mask) : s.MaskLegal k ↔ t.MaskLegal k := by
  simp only [State.MaskLegal, State.degree, hd, hm]

theorem genLengthLegal_iff_of_eq {s t : State} (hp : s.params = t.params) (hg : s.glen = t.glen) :
    s.GenLengthLegal ↔ t.GenLengthLegal := by
  simp only [State.GenLengthLegal, hp, hg]

theorem fillWidthLegal_iff_of_eq {s t : State} {k : Channel} (hd : (s.chan k).deg = (t.chan k).deg)
    (hf : (s.chan k).fill = (t.chan k).fill) : s.FillWidthLegal k ↔ t.FillWidthLegal k := by
  simp only [State.FillWidthLegal, State.degree, hd, hf]

theorem targetLegal_iff_of_eq {s t : State} (hp : s.params = t.params) (hl : s.tlen = t.tlen) :
    s.TargetLegal ↔ t.TargetLegal := by
  simp only [State.TargetLegal, hp, hl]

theorem nreqLegal_iff_of_eq {s t : State} {k : Channel} (hn : (s.chan k).nreq = (t.chan k).nreq)
    (hl : s.tlen = t.tlen) : s.PrefixLegal k ↔ t.PrefixLegal k := by
  simp only [State.PrefixLegal, hn, hl]

/-! ### Generation and combination -/

theorem fill_generateInto_eq {s t : State} {k : Channel} (hd : (s.chan k).deg = (t.chan k).deg)
    (hm : (s.chan k).mask = (t.chan k).mask) (f : Word) (len : Nat) :
    ((s.generateInto k f len).chan k).fill = ((t.generateInto k f len).chan k).fill := by
  simp only [chan_generateInto_same, State.degree, hd, hm]

theorem bitAt_generateInto_eq {s t : State} {k : Channel} (hd : (s.chan k).deg = (t.chan k).deg)
    (hm : (s.chan k).mask = (t.chan k).mask) (f : Word) {len a : Nat} (ha : a < len) :
    (s.generateInto k f len).bitAt (.seq k) a = (t.generateInto k f len).bitAt (.seq k) a := by
  simp only [bitAt_generateInto, ha, and_self, if_true, State.degree, hd, hm]

theorem bitAt_generateInto_ne (s : State) {k : Channel} {sp : Space} (h : sp ≠ .seq k) (f : Word) (len a : Nat) :
    (s.generateInto k f len).bitAt sp a = s.bitAt sp a := by
  rw [bitAt_generateInto, if_neg fun e => h e.1]

theorem bitAt_combineInto_ne (s : State) {sp : Space} (h : sp ≠ .out) (len a : Nat) :
    (s.combineInto len).bitAt sp a = s.bitAt sp a := by
  rw [bitAt_combineInto, if_neg fun e => h e.1]

theorem bitAt_combineInto_eq {s t : State} {len a : Nat} (ha : a < len)
    (h : ∀ k, s.bitAt (.seq k) a = t.bitAt (.seq k) a) :
    (s.combineInto len).bitAt .out a = (t.combineInto len).bitAt .out a := by
  simp only [bitAt_combineInto, ha, and_self, if_true, h]

/-- The checks of `GEN k` that end with INVALID_PARAMETER (40_lfsr_generate.md R83). -/
abbrev State.GenParamsLegal (s : State) (k : Channel) : Prop :=
  s.DegreeLegal k ∧ s.MaskLegal k ∧ s.GenLengthLegal ∧ s.FillWidthLegal k

/-- `GEN k` with its four parameter checks taken together: they all raise the same outcome. -/
theorem generate_eq (s : State) (k : Channel) :
    s.generate k =
      if s.GenParamsLegal k then
        if (s.chan k).fill = 0#32 then s.raise .degenerateState k.field
        else (s.generateInto k (s.chan k).fill s.glen.toNat).concludeOk
      else s.raise .invalidParameter k.field := by
  unfold State.generate
  by_cases h : s.GenParamsLegal k
  · obtain ⟨hd, hm, hg, hf⟩ := id h
    rw [if_neg (not_not.mpr hd), if_neg (not_not.mpr hm), if_neg (not_not.mpr hg), if_neg (not_not.mpr hf),
      if_pos h]
  · rw [if_neg h]
    split_ifs with hd hm hg hf hz
    · exact absurd ⟨hd, hm, hg, hf⟩ h
    · exact absurd ⟨hd, hm, hg, hf⟩ h
    all_goals rfl

theorem genParamsLegal_iff_of_eq {s t : State} {k : Channel} (hp : s.params = t.params) (hg : s.glen = t.glen)
    (hd : (s.chan k).deg = (t.chan k).deg) (hm : (s.chan k).mask = (t.chan k).mask)
    (hf : (s.chan k).fill = (t.chan k).fill) : s.GenParamsLegal k ↔ t.GenParamsLegal k :=
  and_congr (degreeLegal_iff_of_eq hp hd)
    (and_congr (maskLegal_iff_of_eq hd hm)
      (and_congr (genLengthLegal_iff_of_eq hp hg) (fillWidthLegal_iff_of_eq hd hf)))

/-! ### The correlation search -/

/-- What a correlation search on channel `k` reads: two states that agree on it. A legal N_req is at most N, so no target
bit beyond either counts. -/
structure SameCorrOperands (k : Channel) (s t : State) : Prop where
  params : s.params = t.params
  tlen : s.tlen = t.tlen
  deg : (s.chan k).deg = (t.chan k).deg
  mask : (s.chan k).mask = (t.chan k).mask
  nreq : (s.chan k).nreq = (t.chan k).nreq
  thresh : (s.chan k).thresh = (t.chan k).thresh
  target : ∀ a, a < (s.chan k).nreq.toNat → a < s.tlen.toNat → s.bitAt .tgt a = t.bitAt .tgt a

theorem SameCorrOperands.corrLegal_iff {k : Channel} {s t : State} (h : SameCorrOperands k s t) :
    s.CorrLegal k ↔ t.CorrLegal k :=
  and_congr (degreeLegal_iff_of_eq h.params h.deg)
    (and_congr (maskLegal_iff_of_eq h.deg h.mask)
      (and_congr (targetLegal_iff_of_eq h.params h.tlen) (nreqLegal_iff_of_eq h.nreq h.tlen)))

theorem SameCorrOperands.corrInput_eq {k : Channel} {s t : State} (h : SameCorrOperands k s t) :
    s.corrInput k = t.corrInput k := by
  unfold State.corrInput
  by_cases hs : s.CorrLegal k
  · obtain ⟨-, -, -, -, hlen⟩ := id hs
    have hread : s.readSeq .tgt (s.chan k).nreq.toNat = t.readSeq .tgt (s.chan k).nreq.toNat :=
      readSeq_eq_of_bitAt_eq fun a ha => h.target a ha (by omega)
    rw [if_pos hs, if_pos (h.corrLegal_iff.mp hs), hread]
    simp only [State.degree, h.deg, h.mask, h.nreq, h.thresh]
  · rw [if_neg hs, if_neg (mt h.corrLegal_iff.mpr hs)]

/-- The three result registers are written together, so the same values written leave the same result. -/
theorem sameResult_setResult (s t : State) (k : Channel) (f d : Word) (c : Code) :
    SameResult ((s.setResult k f d c).chan k) ((t.setResult k f d c).chan k) := by
  simp [SameResult]

theorem sameResult_failSearch (s t : State) (k : Channel) (c : Code) :
    SameResult ((s.failSearch k c).chan k) ((t.failSearch k c).chan k) := sameResult_setResult s t k _ _ c

theorem sameResult_corrResult (s t : State) (k : Channel) (u : SearchUnit) :
    SameResult ((s.corrResult k u).chan k) ((t.corrResult k u).chan k) := by
  unfold State.corrResult
  split_ifs
  · exact sameResult_setResult s t k _ _ _
  · exact sameResult_failSearch s t k _

/-- A search unit started on a scan forgets its past: the distance accumulator, the one register that `start` leaves, is
written by the first sequencer step before anything reads it. -/
theorem corrScan_start_eq (x : CorrInput) (u v : SearchUnit) : corrScan x u.start = corrScan x v.start := by
  obtain ⟨m, hm⟩ : ∃ m, 2 ^ x.n = m + 1 := Nat.exists_eq_succ_of_ne_zero (by positivity)
  have first : corrStep x u.start = corrStep x v.start := rfl
  simp only [corrScan, hm, Function.iterate_succ_apply, first]

/-- The result of a correlation search depends on its input alone, not on what its unit held. -/
theorem sameResult_corrUnit {k : Channel} {s t : State} (w v : UnitId) (h : s.corrInput k = t.corrInput k) :
    SameResult ((s.corrUnit w k).chan k) ((t.corrUnit v k).chan k) := by
  unfold State.corrUnit
  rw [← h]
  cases s.corrInput k with
  | none => exact sameResult_failSearch s t k _
  | some x =>
    simp only [State.corrCommit, corrFinal, corrScan_start_eq x (s.unit w) (t.unit v)]
    exact sameResult_corrResult _ _ k _

/-! ### The consistency search -/

/-- What the consistency search reads: two states that agree on it. -/
structure SameFselOperands (s t : State) : Prop where
  params : s.params = t.params
  tlen : s.tlen = t.tlen
  deg : (s.chan .c3).deg = (t.chan .c3).deg
  mask : (s.chan .c3).mask = (t.chan .c3).mask
  bits : ∀ sp a, sp = .tgt ∨ sp = .seq .c1 ∨ sp = .seq .c2 → a < s.tlen.toNat → s.bitAt sp a = t.bitAt sp a

theorem fselLegal_iff_of_eq {s t : State} (hp : s.params = t.params) (hl : s.tlen = t.tlen)
    (hd : (s.chan .c3).deg = (t.chan .c3).deg) (hm : (s.chan .c3).mask = (t.chan .c3).mask) :
    s.FselLegal ↔ t.FselLegal :=
  and_congr (degreeLegal_iff_of_eq hp hd) (and_congr (maskLegal_iff_of_eq hd hm) (targetLegal_iff_of_eq hp hl))

theorem SameFselOperands.fselInput_eq {s t : State} (h : SameFselOperands s t) : s.fselInput = t.fselInput := by
  have hlegal := fselLegal_iff_of_eq h.params h.tlen h.deg h.mask
  have hread : ∀ sp, sp = .tgt ∨ sp = .seq .c1 ∨ sp = .seq .c2 →
      s.readSeq sp s.tlen.toNat = t.readSeq sp s.tlen.toNat :=
    fun sp hsp => readSeq_eq_of_bitAt_eq fun a ha => h.bits sp a hsp ha
  unfold State.fselInput
  by_cases hs : s.FselLegal
  · rw [if_pos hs, if_pos (hlegal.mp hs), hread .tgt (.inl rfl), hread (.seq .c1) (.inr (.inl rfl)),
      hread (.seq .c2) (.inr (.inr rfl))]
    simp only [State.degree, h.deg, h.mask, h.tlen]
  · rw [if_neg hs, if_neg (mt hlegal.mpr hs)]

/-- Whether and where the scan finds a match depends on J and CAND alone, not on the unit's other registers. -/
theorem fselScan_eq_of_index (x : FselInput) : ∀ (left : Nat) (u v : SearchUnit), u.j = v.j → u.cand = v.cand →
    (fselScan x left u).2 = (fselScan x left v).2 ∧ (fselScan x left u).1.cand = (fselScan x left v).1.cand
  | 0, _, _, _, hc => ⟨rfl, hc⟩
  | left + 1, u, v, hj, hc => by
    by_cases hm : u.cand ≠ 0#32 ∧ fselMatch x u.j.toNat = true
    · rw [fselScan, fselScan, if_pos hm, if_pos (by rwa [← hj, ← hc])]
      exact ⟨rfl, hc⟩
    · rw [fselScan, fselScan, if_neg hm, if_neg (by rwa [← hj, ← hc])]
      exact fselScan_eq_of_index x left _ _ (by simp only [j_advance, hj]) (by simp only [cand_advance, hj, hc])

/-- The result of the consistency search depends on its input alone, not on what unit A held. -/
theorem sameResult_fselUnit {s t : State} (h : s.fselInput = t.fselInput) :
    SameResult (s.fselUnit.chan .c3) (t.fselUnit.chan .c3) := by
  unfold State.fselUnit
  rw [← h]
  cases s.fselInput with
  | none => exact sameResult_failSearch s t .c3 _
  | some x =>
    obtain ⟨hfound, hcand⟩ := fselScan_eq_of_index x (2 ^ x.n) { s.unitA with j := 0, cand := 1#32 }
      { t.unitA with j := 0, cand := 1#32 } rfl rfl
    simp only [hfound, hcand]
    split_ifs
    · exact sameResult_setResult _ _ .c3 _ _ _
    · exact sameResult_failSearch _ _ .c3 _

/-! ### The end of a searching command -/

theorem SameResult.rstat_eq {c d : ChannelRegs} (h : SameResult c d) : c.rstat = d.rstat := h.2.2

theorem firstFailure_eq {s t : State} {ks : List Channel} (h : ∀ k ∈ ks, (s.chan k).rstat = (t.chan k).rstat) :
    s.firstFailure ks = t.firstFailure ks := by
  unfold State.firstFailure
  induction ks with
  | nil => rfl
  | cons k ks ih =>
    simp only [List.find?_cons, State.searchOk, h k (by simp)]
    split
    · rfl
    · exact ih fun j hj => h j (by simp [hj])

@[simp] theorem chan_concludeSearch (s : State) (ks : List Channel) (j : Channel) :
    (s.concludeSearch ks).chan j = s.chan j := by
  rcases concludeSearch_cases s ks with ⟨k, -, -, h⟩ | ⟨-, h⟩ <;> simp [h]

/-- CSTAT after a searching command depends on the status registers of its channels alone. -/
theorem cstat_concludeSearch_eq {s t : State} {ks : List Channel}
    (h : ∀ k ∈ ks, (s.chan k).rstat = (t.chan k).rstat) :
    (s.concludeSearch ks).cstat = (t.concludeSearch ks).cstat := by
  unfold State.concludeSearch
  rw [← firstFailure_eq h]
  cases hf : s.firstFailure ks with
  | none => rfl
  | some k => simp [h k (List.mem_of_find?_eq_some hf)]

theorem SameResult.concludeSearch {s t : State} {k : Channel} (h : SameResult (s.chan k) (t.chan k))
    (ks : List Channel) : SameResult ((s.concludeSearch ks).chan k) ((t.concludeSearch ks).chan k) := by
  simpa using h

/-! ### The commands but RECOVER -/

theorem generate_sameWritten {s t : State} {k : Channel} (h : SameOperands (.gen k.field) s t) :
    SameWritten (.gen k.field) s (s.generate k) (t.generate k) := by
  obtain ⟨hp, hg, hk⟩ := h
  obtain ⟨hd, hm, hf⟩ := hk k rfl
  have hlegal := genParamsLegal_iff_of_eq hp hg hd hm hf
  suffices hw : (s.generate k).cstat = (t.generate k).cstat ∧
      ((s.generate k).chan k).fill = ((t.generate k).chan k).fill ∧
      ((s.generate k).cstat = statusWord 1 0 → ∀ a, a < s.glen.toNat →
        (s.generate k).bitAt (.seq k) a = (t.generate k).bitAt (.seq k) a) from
    ⟨hw.1, fun j hj => field_inj hj ▸ hw.2⟩
  simp only [generate_eq, ← hlegal, ← hf, ← hg]
  split_ifs with hl hz
  · exact ⟨rfl, by simpa using hf, fun hok => absurd hok (cstatWord_field_ne_ok _ k)⟩
  · refine ⟨rfl, ?_, fun _ a ha => ?_⟩
    · simpa only [chan_concludeOk] using fill_generateInto_eq hd hm _ _
    · simpa only [bitAt_concludeOk] using bitAt_generateInto_eq hd hm _ ha
  · exact ⟨rfl, by simpa using hf, fun hok => absurd hok (cstatWord_invalidParameter_ne _).1⟩

theorem gen_sameWritten {s t : State} {ch : BitVec 2} (h : SameOperands (.gen ch) s t) :
    ∃ s' t', execGen ch s = .next s' ∧ execGen ch t = .next t' ∧ SameWritten (.gen ch) s s' t' := by
  unfold execGen
  cases hk : Channel.ofField ch with
  | some k =>
    obtain rfl := ofField_eq_some hk
    exact ⟨_, _, rfl, rfl, generate_sameWritten h⟩
  | none => exact ⟨_, _, rfl, rfl, rfl, fun k e => absurd e (ne_field_of_ofField_eq_none hk k)⟩

theorem comb_sameWritten {s t : State} (h : SameOperands .comb s t) :
    ∃ s' t', execComb s = .next s' ∧ execComb t = .next t' ∧ SameWritten .comb s s' t' := by
  obtain ⟨hp, hg, hseq⟩ := h
  have hlegal := genLengthLegal_iff_of_eq hp hg
  by_cases hs : s.GenLengthLegal
  · refine ⟨_, _, if_neg (not_not.mpr hs), if_neg (not_not.mpr (hlegal.mp hs)), rfl, fun _ a ha => ?_⟩
    rw [← hg]
    simpa only [bitAt_concludeOk] using bitAt_combineInto_eq ha fun k => hseq k a ha
  · exact ⟨_, _, if_pos hs, if_pos (mt hlegal.mpr hs), rfl,
      fun hok => absurd hok (cstatWord_invalidParameter_ne _).1⟩

theorem corr_sameWritten {s t : State} {ch : BitVec 2} (h : SameOperands (.corr ch) s t) :
    ∃ s' t', execCorr ch s = .next s' ∧ execCorr ch t = .next t' ∧ SameWritten (.corr ch) s s' t' := by
  unfold execCorr
  cases hk : Channel.ofField ch with
  | some k =>
    obtain ⟨hp, hl, hoperands⟩ := h
    obtain ⟨hd, hm, hn, hc, hb⟩ := hoperands k (ofField_eq_some hk)
    have hinput : SameCorrOperands k s t := ⟨hp, hl, hd, hm, hn, hc, fun a ha _ => hb a ha⟩
    have hresult := sameResult_corrUnit .a .a hinput.corrInput_eq
    refine ⟨_, _, rfl, rfl, cstat_concludeSearch_eq (by simpa using hresult.rstat_eq), fun j hj => ?_⟩
    obtain rfl : k = j := field_inj ((ofField_eq_some hk).symm.trans hj)
    exact hresult.concludeSearch _
  | none => exact ⟨_, _, rfl, rfl, rfl, fun k e => absurd e (ne_field_of_ofField_eq_none hk k)⟩

/-- A search on one channel keeps what a search on another one reads. -/
theorem corrInput_corrUnit_ne (s : State) (w : UnitId) {j k : Channel} (h : k ≠ j) :
    (s.corrUnit w j).corrInput k = s.corrInput k :=
  corrInput_congr (by simp) (by simp [h]) (by simp [h]) (by simp [h]) (by simp [h]) (by simp) (by simp)

/-- The dual search depends on the inputs of its two searches alone. -/
theorem sameResult_corrBoth {s t : State} (h1 : s.corrInput .c1 = t.corrInput .c1)
    (h2 : s.corrInput .c2 = t.corrInput .c2) :
    SameResult (s.corrBoth.chan .c1) (t.corrBoth.chan .c1) ∧
      SameResult (s.corrBoth.chan .c2) (t.corrBoth.chan .c2) := by
  constructor
  · have hframe : ∀ u : State, u.corrBoth.chan .c1 = (u.corrUnit .a .c1).chan .c1 :=
      fun u => chan_corrUnit_ne _ _ _ _ (by decide)
    rw [hframe, hframe]
    exact sameResult_corrUnit .a .a h1
  · refine sameResult_corrUnit .b .b ?_
    rw [corrInput_corrUnit_ne _ _ (by decide), corrInput_corrUnit_ne _ _ (by decide), h2]

theorem corr2_sameWritten {s t : State} (h : SameOperands .corr2 s t) :
    SameWritten .corr2 s (s.corrBoth.concludeSearch [.c1, .c2]) (t.corrBoth.concludeSearch [.c1, .c2]) := by
  obtain ⟨hp, hl, hk⟩ := h
  have hinput : ∀ k, k ≠ .c3 → s.corrInput k = t.corrInput k := by
    intro k hne
    obtain ⟨hd, hm, hn, hc, hb⟩ := hk k hne
    exact SameCorrOperands.corrInput_eq ⟨hp, hl, hd, hm, hn, hc, fun a ha _ => hb a ha⟩
  obtain ⟨h1, h2⟩ := sameResult_corrBoth (hinput .c1 (by decide)) (hinput .c2 (by decide))
  refine ⟨cstat_concludeSearch_eq ?_, h1.concludeSearch _, h2.concludeSearch _⟩
  simp [h1.rstat_eq, h2.rstat_eq]

theorem fsel_sameWritten {s t : State} (h : SameOperands .fsel s t) :
    SameWritten .fsel s (s.fselUnit.concludeSearch [.c3]) (t.fselUnit.concludeSearch [.c3]) := by
  obtain ⟨hp, hl, hd, hm, hb⟩ := h
  have hinput : SameFselOperands s t := ⟨hp, hl, hd, hm, hb⟩
  have hresult := sameResult_fselUnit hinput.fselInput_eq
  exact ⟨cstat_concludeSearch_eq (by simpa using hresult.rstat_eq), hresult.concludeSearch _⟩

/-! ### RECOVER: its stages keep its operands -/

/-- `t` still holds what `RECOVER` reads of `s`: the configuration, the parameters and the target. -/
structure KeepsInputs (s t : State) : Prop where
  config : SameConfiguration s t
  params : t.params = s.params
  target : ∀ a, t.bitAt .tgt a = s.bitAt .tgt a

theorem KeepsInputs.trans {s t u : State} (h : KeepsInputs s t) (g : KeepsInputs t u) : KeepsInputs s u := by
  obtain ⟨⟨hg, hl, hk⟩, hp, hb⟩ := h
  obtain ⟨⟨gg, gl, gk⟩, gp, gb⟩ := g
  refine ⟨⟨gg.trans hg, gl.trans hl, fun k => ?_⟩, gp.trans hp, fun a => (gb a).trans (hb a)⟩
  obtain ⟨hd, hm, hn, hc⟩ := hk k
  obtain ⟨gd, gm, gn, gc⟩ := gk k
  exact ⟨gd.trans hd, gm.trans hm, gn.trans hn, gc.trans hc⟩

/-- An update that leaves every channel, the lengths, the parameters and TGT alone keeps the operands. -/
theorem keepsInputs_of_eq {s t : State} (hp : t.params = s.params) (hg : t.glen = s.glen) (hl : t.tlen = s.tlen)
    (hk : ∀ k, t.chan k = s.chan k) (hm : t.mem .tgt = s.mem .tgt) (he : t.memEpoch = s.memEpoch) : KeepsInputs s t :=
  ⟨⟨hg, hl, fun k => by simp only [hk, and_self]⟩, hp, bitAt_congr hm he⟩

theorem keepsInputs_setPhase (s : State) (p : Phase) : KeepsInputs s (s.setPhase p) :=
  keepsInputs_of_eq (by simp) (by simp) (by simp) (by simp) (by simp) (by simp)

theorem keepsInputs_setUnit (s : State) (w : UnitId) (u : SearchUnit) : KeepsInputs s (s.setUnit w u) :=
  keepsInputs_of_eq (by simp) (by simp) (by simp) (by simp) (by simp) (by simp)

theorem keepsInputs_combineInto (s : State) (len : Nat) : KeepsInputs s (s.combineInto len) :=
  keepsInputs_of_eq (by simp) (by simp) (by simp) (by simp) (by simp) (by simp)

theorem keepsInputs_setResult (s : State) (k : Channel) (f d : Word) (c : Code) :
    KeepsInputs s (s.setResult k f d c) := by
  refine ⟨⟨by simp, by simp, fun j => ?_⟩, by simp, bitAt_congr (by simp) (by simp)⟩
  by_cases hj : j = k
  · subst hj
    simp
  · simp [hj]

theorem keepsInputs_failSearch (s : State) (k : Channel) (c : Code) : KeepsInputs s (s.failSearch k c) :=
  keepsInputs_setResult s k _ _ c

theorem keepsInputs_generateInto (s : State) (k : Channel) (f : Word) (len : Nat) :
    KeepsInputs s (s.generateInto k f len) := by
  refine ⟨⟨by simp, by simp, fun j => ?_⟩, by simp, bitAt_congr (by simp) (by simp)⟩
  by_cases hj : j = k
  · subst hj
    simp
  · simp [hj]

theorem keepsInputs_corrUnit (s : State) (w : UnitId) (k : Channel) : KeepsInputs s (s.corrUnit w k) := by
  obtain ⟨u, f, d, c, h, -⟩ := corrUnit_cases s w k
  rw [h]
  exact (keepsInputs_setUnit s w u).trans (keepsInputs_setResult _ k f d c)

theorem keepsInputs_corrBoth (s : State) : KeepsInputs s s.corrBoth :=
  (keepsInputs_corrUnit s .a .c1).trans (keepsInputs_corrUnit _ .b .c2)

theorem keepsInputs_fselUnit (s : State) : KeepsInputs s s.fselUnit := by
  obtain ⟨u, f, d, c, h, -⟩ := fselUnit_cases s
  rw [h]
  exact (keepsInputs_setUnit s .a u).trans (keepsInputs_setResult _ .c3 f d c)

/-- Two states with the same operands of `RECOVER` still have them after updates that keep the operands. -/
theorem KeepsInputs.sameOperands {s t s' t' : State} (hs : KeepsInputs s s') (ht : KeepsInputs t t')
    (h : SameOperands .recover s t) : SameOperands .recover s' t' := by
  obtain ⟨hp, hl, hk, hn, hb⟩ := h
  obtain ⟨⟨-, sl, sk⟩, sp, sb⟩ := hs
  obtain ⟨⟨-, tl, tk⟩, tp, tb⟩ := ht
  refine ⟨by rw [sp, tp, hp], by rw [sl, tl, hl], fun k => ?_, fun k hne => ?_, fun a ha => ?_⟩
  · obtain ⟨sd, sm, -, -⟩ := sk k
    obtain ⟨td, tm, -, -⟩ := tk k
    rw [sd, sm, td, tm]
    exact hk k
  · obtain ⟨-, -, sn, sc⟩ := sk k
    obtain ⟨-, -, tn, tc⟩ := tk k
    rw [sn, sc, tn, tc]
    exact hn k hne
  · rw [sb, tb]
    exact hb a (sl ▸ ha)

theorem SameOperands.corrOperands {s t : State} (h : SameOperands .recover s t) {k : Channel} (hne : k ≠ .c3) :
    SameCorrOperands k s t := by
  obtain ⟨hp, hl, hk, hn, hb⟩ := h
  exact ⟨hp, hl, (hk k).1, (hk k).2, (hn k hne).1, (hn k hne).2, fun a _ ha => hb a ha⟩

theorem SameOperands.recoverLegal_eq {s t : State} (h : SameOperands .recover s t) :
    ∀ k, s.recoverLegal k = t.recoverLegal k
  | .c1 => decide_eq_decide.mpr (h.corrOperands (by decide)).corrLegal_iff
  | .c2 => decide_eq_decide.mpr (h.corrOperands (by decide)).corrLegal_iff
  | .c3 => by
    obtain ⟨hp, hl, hk, -, -⟩ := h
    exact decide_eq_decide.mpr (fselLegal_iff_of_eq hp hl (hk .c3).1 (hk .c3).2)

/-! ### RECOVER: two runs side by side -/

/-- Two runs of `RECOVER` at the same point, from the clearing of the results on: they agree on the operands and on
every result register. -/
structure SameSearches (s t : State) : Prop where
  operands : SameOperands .recover s t
  results : ∀ k, SameResult (s.chan k) (t.chan k)

theorem SameSearches.tlen_eq {s t : State} (h : SameSearches s t) : s.tlen = t.tlen := by
  obtain ⟨-, hl, -, -, -⟩ := h.operands
  exact hl

theorem SameSearches.deg_eq {s t : State} (h : SameSearches s t) (k : Channel) :
    (s.chan k).deg = (t.chan k).deg := by
  obtain ⟨-, -, hk, -, -⟩ := h.operands
  exact (hk k).1

theorem SameSearches.mask_eq {s t : State} (h : SameSearches s t) (k : Channel) :
    (s.chan k).mask = (t.chan k).mask := by
  obtain ⟨-, -, hk, -, -⟩ := h.operands
  exact (hk k).2

theorem SameSearches.firstFailure_eq {s t : State} (h : SameSearches s t) (ks : List Channel) :
    s.firstFailure ks = t.firstFailure ks :=
  Machine.firstFailure_eq fun k _ => (h.results k).rstat_eq

theorem SameSearches.setPhase {s t : State} (h : SameSearches s t) (p : Phase) :
    SameSearches (s.setPhase p) (t.setPhase p) :=
  ⟨(keepsInputs_setPhase s p).sameOperands (keepsInputs_setPhase t p) h.operands, by simpa using h.results⟩

theorem SameSearches.failSearch {s t : State} (h : SameSearches s t) (k : Channel) (c : Code) :
    SameSearches (s.failSearch k c) (t.failSearch k c) := by
  refine ⟨(keepsInputs_failSearch s k c).sameOperands (keepsInputs_failSearch t k c) h.operands, fun j => ?_⟩
  by_cases hj : j = k
  · exact hj ▸ sameResult_failSearch s t j c
  · simpa [hj] using h.results j

/-- Clearing the results makes two runs agree on them, whatever an earlier command left there. -/
theorem sameSearches_clearResults {s t : State} (h : SameOperands .recover s t) :
    SameSearches s.clearResults t.clearResults := by
  have keeps : ∀ u : State, KeepsInputs u u.clearResults := fun u =>
    ((keepsInputs_failSearch u .c1 _).trans (keepsInputs_failSearch _ .c2 _)).trans (keepsInputs_failSearch _ .c3 _)
  refine ⟨(keeps s).sameOperands (keeps t) h, fun k => ?_⟩
  cases k <;> simp [State.clearResults, SameResult]

theorem SameSearches.markBad {s t : State} (h : SameSearches s t) (k : Channel) :
    SameSearches (s.markBad k) (t.markBad k) := by
  simp only [State.markBad, ← h.operands.recoverLegal_eq k]
  split_ifs
  · exact h
  · exact h.failSearch k _

theorem SameSearches.corrBoth {s t : State} (h : SameSearches s t) : SameSearches s.corrBoth t.corrBoth := by
  refine ⟨(keepsInputs_corrBoth s).sameOperands (keepsInputs_corrBoth t) h.operands, ?_⟩
  obtain ⟨h1, h2⟩ := sameResult_corrBoth (h.operands.corrOperands (k := .c1) (by decide)).corrInput_eq
    (h.operands.corrOperands (k := .c2) (by decide)).corrInput_eq
  intro k
  cases k with
  | c1 => exact h1
  | c2 => exact h2
  | c3 => simpa [State.corrBoth] using h.results .c3

theorem SameSearches.recoverSearch {s t : State} (h : SameSearches s t) :
    SameSearches s.recoverSearch t.recoverSearch := (h.setPhase .scan12).corrBoth

theorem SameSearches.generateInto {s t : State} (h : SameSearches s t) (k : Channel) (f : Word) (len : Nat) :
    SameSearches (s.generateInto k f len) (t.generateInto k f len) := by
  refine ⟨(keepsInputs_generateInto s k f len).sameOperands (keepsInputs_generateInto t k f len) h.operands,
    fun j => ?_⟩
  by_cases hj : j = k
  · subst hj
    simpa [SameResult] using h.results j
  · simpa [hj] using h.results j

/-- Two runs of `RECOVER` after channels `ks` have been generated at length N: they also agree on the fills and
sequences of those channels. -/
structure SameGenerated (ks : List Channel) (s t : State) : Prop extends SameSearches s t where
  fills : ∀ k ∈ ks, (s.chan k).fill = (t.chan k).fill
  seqs : ∀ k ∈ ks, ∀ a, a < s.tlen.toNat → s.bitAt (.seq k) a = t.bitAt (.seq k) a

@[simp] theorem bitAt_setPhase (s : State) (p : Phase) (sp : Space) (a : Nat) :
    (s.setPhase p).bitAt sp a = s.bitAt sp a := bitAt_congr (by simp) (by simp) a

theorem SameGenerated.setPhase {ks : List Channel} {s t : State} (h : SameGenerated ks s t) (p : Phase) :
    SameGenerated ks (s.setPhase p) (t.setPhase p) :=
  ⟨h.toSameSearches.setPhase p, by simpa using h.fills, by simpa using h.seqs⟩

/-- Generating one more channel from the same seed adds it to those two runs agree on. -/
theorem SameGenerated.generateInto {ks : List Channel} {s t : State} (h : SameGenerated ks s t) (k : Channel)
    {f g : Word} (hseed : f = g) :
    SameGenerated (k :: ks) (s.generateInto k f s.tlen.toNat) (t.generateInto k g t.tlen.toNat) := by
  subst hseed
  rw [← h.tlen_eq]
  refine ⟨h.toSameSearches.generateInto k f _, fun j hj => ?_, fun j hj a ha => ?_⟩
  · by_cases hjk : j = k
    · exact hjk ▸ fill_generateInto_eq (h.deg_eq j) (h.mask_eq j) f _
    · simpa [hjk] using h.fills j (List.mem_of_ne_of_mem hjk hj)
  · rw [tlen_generateInto] at ha
    by_cases hjk : j = k
    · exact hjk ▸ bitAt_generateInto_eq (h.deg_eq j) (h.mask_eq j) f ha
    · rw [bitAt_generateInto_ne _ (by simpa using hjk), bitAt_generateInto_ne _ (by simpa using hjk)]
      exact h.seqs j (List.mem_of_ne_of_mem hjk hj) a ha

/-- Stage 2 starts from the recovered fills, so two runs that agree on them regenerate the same sequences. -/
theorem SameSearches.recoverRegenerate {s t : State} (h : SameSearches s t) :
    SameGenerated [.c2, .c1] s.recoverRegenerate t.recoverRegenerate := by
  have hscan : SameGenerated [] (s.setPhase .regen) (t.setPhase .regen) := ⟨h.setPhase .regen, by simp, by simp⟩
  have hx := hscan.generateInto .c1 (h.results .c1).1
  exact hx.generateInto .c2 (hx.results .c2).1

/-- Stage 3 reads the regenerated sequences, the target and channel 3's configuration, and nothing else. -/
theorem SameGenerated.recoverSelect {s t : State} (h : SameGenerated [.c2, .c1] s t) :
    SameGenerated [.c2, .c1] s.recoverSelect t.recoverSelect := by
  have hscan := h.setPhase .scan3
  obtain ⟨hp, hl, hk, -, hb⟩ := hscan.operands
  have hinput : SameFselOperands (s.setPhase .scan3) (t.setPhase .scan3) := by
    refine ⟨hp, hl, (hk .c3).1, (hk .c3).2, ?_⟩
    rintro sp a (rfl | rfl | rfl) ha
    · exact hb a ha
    · exact hscan.seqs .c1 (by simp) a ha
    · exact hscan.seqs .c2 (by simp) a ha
  unfold State.recoverSelect
  refine ⟨⟨(keepsInputs_fselUnit _).sameOperands (keepsInputs_fselUnit _) hscan.operands, fun k => ?_⟩,
    fun k hk => ?_, by simpa using hscan.seqs⟩
  · by_cases hk3 : k = .c3
    · exact hk3 ▸ sameResult_fselUnit hinput.fselInput_eq
    · simpa [hk3] using hscan.results k
  · have hk3 : k ≠ .c3 := by
      rintro rfl
      simp at hk
    simpa [hk3] using hscan.fills k hk

theorem SameGenerated.combineInto {ks : List Channel} {s t : State} (h : SameGenerated ks s t) (len : Nat) :
    SameGenerated ks (s.combineInto len) (t.combineInto len) := by
  refine ⟨⟨(keepsInputs_combineInto s len).sameOperands (keepsInputs_combineInto t len) h.operands,
    by simpa using h.results⟩, by simpa using h.fills, fun k hk a ha => ?_⟩
  rw [bitAt_combineInto_ne _ (by simp), bitAt_combineInto_ne _ (by simp)]
  exact h.seqs k hk a (by simpa using ha)

/-- Stage 4 generates channel 3 and combines the three sequences, so two runs that agree so far agree on OUT too. -/
theorem SameGenerated.recoverVerify {s t : State} (h : SameGenerated [.c2, .c1] s t) :
    SameGenerated [.c3, .c2, .c1] s.recoverVerify t.recoverVerify ∧
      ∀ a, a < s.tlen.toNat → s.recoverVerify.bitAt .out a = t.recoverVerify.bitAt .out a := by
  have hz := (h.setPhase .verify).generateInto .c3 (h.results .c3).1
  unfold State.recoverVerify
  simp only [tlen_setPhase, ← h.tlen_eq] at hz ⊢
  exact ⟨hz.combineInto _, fun a ha => bitAt_combineInto_eq ha fun k => hz.seqs k (by cases k <;> simp) a ha⟩

/-! ### RECOVER: what it writes -/

@[simp] theorem tlen_recoverSearch (s : State) : s.recoverSearch.tlen = s.tlen := by
  simp [State.recoverSearch, State.corrBoth]

@[simp] theorem tlen_recoverRegenerate (s : State) : s.recoverRegenerate.tlen = s.tlen := by
  simp [State.recoverRegenerate]

@[simp] theorem tlen_recoverSelect (s : State) : s.recoverSelect.tlen = s.tlen := by
  simp [State.recoverSelect]

@[simp] theorem tlen_recoverVerify (s : State) : s.recoverVerify.tlen = s.tlen := by
  simp [State.recoverVerify]

@[simp] theorem tlen_clearResults (s : State) : s.clearResults.tlen = s.tlen := by
  simp [State.clearResults]

/-- A `RECOVER` that ends before stage 2 has written the results and CSTAT only. -/
theorem SameSearches.sameWritten_conclude {s t : State} (h : SameSearches s t) (s0 : State) {c : BitVec 4}
    {b : BitVec 2} (hok : cstatWord c b ≠ statusWord 1 0) (hstage3 : cstatWord c b ≠ statusWord 2 3) :
    SameWritten .recover s0 (s.conclude c b) (t.conclude c b) :=
  ⟨rfl, by simpa using h.results, fun e => absurd e hok, fun e => absurd e hstage3⟩

/-- A `RECOVER` that stops after stage 3 has also written the fills and sequences of channels 1 and 2. -/
theorem SameGenerated.sameWritten_conclude {s t s0 : State} (h : SameGenerated [.c2, .c1] s t) (hl : s.tlen = s0.tlen)
    (c : BitVec 4) (k : Channel) : SameWritten .recover s0 (s.conclude c k.field) (t.conclude c k.field) := by
  refine ⟨rfl, by simpa using h.results, fun e => absurd e (cstatWord_field_ne_ok c k), fun _ j hj => ?_⟩
  have hmem : j ∈ [Channel.c2, .c1] := by
    cases j with
    | c1 => simp
    | c2 => simp
    | c3 => exact absurd rfl hj
  simpa [← hl] using And.intro (h.fills j hmem) (h.seqs j hmem)

/-- A `RECOVER` that ends OK has also written channel 3's fill and sequence, and OUT. -/
theorem SameGenerated.sameWritten_concludeOk {s t s0 : State} (h : SameGenerated [.c3, .c2, .c1] s t)
    (hl : s.tlen = s0.tlen) (hout : ∀ a, a < s.tlen.toNat → s.bitAt .out a = t.bitAt .out a) :
    SameWritten .recover s0 s.concludeOk t.concludeOk := by
  have hmem : ∀ k, k ∈ [Channel.c3, .c2, .c1] := by
    intro k
    cases k <;> simp
  refine ⟨rfl, by simpa using h.results, fun _ => ⟨fun k => ?_, fun sp a hsp ha => ?_⟩, fun e => ?_⟩
  · simpa using h.fills k (hmem k)
  · rw [bitAt_concludeOk, bitAt_concludeOk]
    rw [← hl] at ha
    cases sp with
    | tgt => exact absurd rfl hsp
    | seq k => exact h.seqs k (hmem k) a ha
    | out => exact hout a ha
  · rw [cstat_concludeOk] at e
    exact absurd e (by decide)

/-- The stages of `RECOVER`, run side by side from states that agree on its operands and on the results: both runs stop
after the same stage, with the same writes done. -/
theorem SameSearches.recoverStages {s t : State} (h : SameSearches s t) :
    SameWritten .recover s s.recoverStages t.recoverStages := by
  have h1 := h.recoverSearch
  have h3 := h1.recoverRegenerate.recoverSelect
  simp only [State.recoverStages, ← h1.firstFailure_eq, ← h3.firstFailure_eq, ← (h1.results _).rstat_eq,
    ← (h3.results _).rstat_eq]
  cases hf1 : s.recoverSearch.firstFailure [.c1, .c2] with
  | some k =>
    have hk : k ≠ .c3 := by
      rintro rfl
      simpa using List.mem_of_find?_eq_some hf1
    exact h1.sameWritten_conclude s (cstatWord_field_ne_ok _ k) (cstatWord_field_ne_stage3 _ hk)
  | none =>
    cases s.recoverSearch.recoverRegenerate.recoverSelect.firstFailure [.c3] with
    | some k => exact h3.sameWritten_conclude (by simp) _ k
    | none =>
      obtain ⟨h4, hout⟩ := h3.recoverVerify
      exact h4.sameWritten_concludeOk (by simp) (by simpa using hout)

/-- `SameWritten` needs of the state a `RECOVER` started from its target length alone. -/
theorem SameWritten.of_tlen_eq {s s0 t u : State} (h : SameWritten .recover s t u) (hl : s.tlen = s0.tlen) :
    SameWritten .recover s0 t u := by
  unfold SameWritten at h ⊢
  rwa [← hl]

theorem recover_sameWritten {s t : State} (h : SameOperands .recover s t) :
    ∃ s' t', execRecover s = .next s' ∧ execRecover t = .next t' ∧ SameWritten .recover s s' t' := by
  have hcleared : SameSearches (s.setPhase .check).clearResults (t.setPhase .check).clearResults :=
    sameSearches_clearResults ((keepsInputs_setPhase s _).sameOperands (keepsInputs_setPhase t _) h)
  simp only [execRecover, ← hcleared.operands.recoverLegal_eq]
  cases [Channel.c1, .c2, .c3].find? (fun k => !(s.setPhase .check).clearResults.recoverLegal k) with
  | some k =>
    obtain ⟨hok, hstage3⟩ := cstatWord_invalidParameter_ne k.field
    exact ⟨_, _, rfl, rfl, (((hcleared.markBad .c1).markBad .c2).markBad .c3).sameWritten_conclude s hok hstage3⟩
  | none => exact ⟨_, _, rfl, rfl, hcleared.recoverStages.of_tlen_eq (by simp)⟩

/-! ### Every command -/

/-- Settles O45, command by command: the parameter checks, the searches and the generations read only the listed
operands, so two runs from states that agree on them take the same branch and write the same values. `RECOVER` is a
simulation that goes through its stages. -/
theorem operandsDetermineWhatIsWritten : Obligations.OperandsDetermineWhatIsWritten := by
  intro i s t h
  cases i with
  | gen ch => exact gen_sameWritten h
  | comb => exact comb_sameWritten h
  | corr ch => exact corr_sameWritten h
  | corr2 => exact ⟨_, _, rfl, rfl, corr2_sameWritten h⟩
  | fsel => exact ⟨_, _, rfl, rfl, fsel_sameWritten h⟩
  | recover => exact recover_sameWritten h

end Sys2Proof.Machine
end

section
/-! SUPPORT. The run of a register, its windows, and the candidate a search tracks (40_lfsr_generate.md R80, R82, R87,
R90; 42_correlation_search.md R112, R113, R121). -/

namespace Sys2Proof.Machine

/-! ### Bits of a state -/

theorem getLsbD_ofBit (b : Bool) (i : Nat) : (Word.ofBit b).getLsbD i = (decide (i = 0) && b) := by
  cases b <;> simp [Word.ofBit]

theorem getLsbD_feedback (b : Bool) {n : Nat} (hn : 1 ≤ n) (hn' : n ≤ 32) (i : Nat) :
    (Word.ofBit b <<< (n - 1)).getLsbD i = (decide (i = n - 1) && b) := by
  have hbit : (i < 32 ∧ ¬ i < n - 1 ∧ i - (n - 1) = 0) ↔ i = n - 1 := by omega
  rw [BitVec.getLsbD_shiftLeft, getLsbD_ofBit]
  simp only [← hbit, Bool.decide_and, decide_not, Bool.and_assoc]

/-- A step shifts right by one and puts the parity in bit n - 1 (R80). -/
theorem getLsbD_lfsrStep {n : Nat} (hn : 1 ≤ n) (hn' : n ≤ 32) (m f : Word) (i : Nat) :
    (lfsrStep n m f).getLsbD i = (f.getLsbD (i + 1) || (decide (i = n - 1) && parity (f &&& m))) := by
  rw [lfsrStep, BitVec.getLsbD_or, getLsbD_feedback _ hn hn', BitVec.getLsbD_ushiftRight, Nat.add_comm]

/-- The states of a run stay within n bits. -/
theorem getLsbD_runState_of_le {n : Nat} (hn : 1 ≤ n) (hn' : n ≤ 32) (m : Word) :
    ∀ (j : Nat) {i : Nat}, n ≤ i → (runState n m j).getLsbD i = false
  | 0, i, hi => by
    have hne : i ≠ 0 := by omega
    simp [runState, hne]
  | j + 1, i, hi => by
    rw [runState, getLsbD_lfsrStep hn hn', getLsbD_runState_of_le hn hn' m j (by omega),
      decide_eq_false (by omega : i ≠ n - 1)]
    rfl

/-- Bit i of the state after t steps is the run bit t + i: "the window" of R87. -/
theorem getLsbD_runState {n : Nat} (hn : 1 ≤ n) (hn' : n ≤ 32) (m : Word) :
    ∀ {i : Nat}, i < n → ∀ t, (runState n m t).getLsbD i = runBit n m (t + i)
  | 0, _, _ => rfl
  | i + 1, hi, t => by
    have hne : i ≠ n - 1 := by omega
    calc (runState n m t).getLsbD (i + 1)
        = (runState n m (t + 1)).getLsbD i := by simp [runState, getLsbD_lfsrStep hn hn', hne]
      _ = runBit n m (t + 1 + i) := getLsbD_runState hn hn' m (by omega) (t + 1)
      _ = runBit n m (t + (i + 1)) := by rw [Nat.add_right_comm, Nat.add_assoc]

/-- The successor relation of R112: the next state is the state shifted, with the run bit n + j coming in at the top. -/
theorem runState_succ {n : Nat} (hn : 1 ≤ n) (hn' : n ≤ 32) (m : Word) (j : Nat) :
    runState n m (j + 1) = (runState n m j >>> 1) ||| (Word.ofBit (runBit n m (n + j)) <<< (n - 1)) := by
  have htop : runBit n m (n + j) = parity (runState n m j &&& m) := by
    calc runBit n m (n + j)
        = runBit n m (j + 1 + (n - 1)) := by congr 1; omega
      _ = (runState n m (j + 1)).getLsbD (n - 1) := (getLsbD_runState hn hn' m (by omega) (j + 1)).symm
      _ = parity (runState n m j &&& m) := by
        rw [runState, getLsbD_lfsrStep hn hn', getLsbD_runState_of_le hn hn' m j (by omega)]
        simp
  rw [htop]
  rfl

/-! ### The run buffer -/

/-- Element t of a generation that starts at state i of the run is the run bit i + t (R82, R90). -/
theorem getElem?_lfsrGen_runState (n : Nat) (m : Word) : ∀ (len i t : Nat), t < len →
    (lfsrGen n m (runState n m i) len).1[t]? = some (runBit n m (i + t))
  | len + 1, i, 0, _ => rfl
  | len + 1, i, t + 1, ht => by
    have hrest := getElem?_lfsrGen_runState n m len (i + 1) t (by omega)
    rw [Nat.add_right_comm, Nat.add_assoc] at hrest
    rw [lfsrGen_succ, List.getElem?_cons_succ]
    exact hrest

/-- Every index inside the run buffer holds the true run bit (42_correlation_search.md R121). -/
theorem getElem?_runBuffer (n : Nat) (m : Word) {len t : Nat} (ht : t < runLength n len) :
    (runBuffer n m len)[t]? = some (runBit n m t) := by
  have hrun := getElem?_lfsrGen_runState n m (runLength n len) 0 t ht
  rwa [Nat.zero_add] at hrun

/-- The tracked successor of a candidate of the run is the next candidate: the bit it reads at index n + j lies inside the
run buffer for every candidate index. -/
theorem successor_runBuffer {n : Nat} (hn : 1 ≤ n) (hn' : n ≤ 32) (m : Word) (len : Nat) {j : Nat} (hj : j < 2 ^ n) :
    successor n (runBuffer n m len) j (runState n m j) = runState n m (j + 1) := by
  have hlt : n + j < runLength n len := by
    have := le_max_right len n
    unfold runLength
    omega
  rw [successor, List.getD_eq_getElem?_getD, getElem?_runBuffer n m hlt, Option.getD_some, runState_succ hn hn']

/-! ### The tracked candidate -/

/-- After j steps of a scan over the run of (n, m), J is the index of the candidate being scored and CAND its state: by
induction on j, each step reading the index from J. -/
theorem corrStep_iterate_tracks {x : CorrInput} {m : Word} {len : Nat} (hn : 1 ≤ x.n) (hn' : x.n ≤ 32)
    (hrun : x.run = runBuffer x.n m len) (u : SearchUnit) (j : Nat) (hj : j ≤ 2 ^ x.n) :
    ((corrStep x)^[j] u.start).j.toNat = min j (2 ^ x.n - 1) ∧
      ((corrStep x)^[j] u.start).cand = runState x.n m j := by
  induction j with
  | zero => simp [SearchUnit.start, runState]
  | succ j ih =>
    obtain ⟨hindex, hcand⟩ := ih (by omega)
    have hscored : ((corrStep x)^[j] u.start).j.toNat = j := by omega
    rw [Function.iterate_succ_apply']
    constructor
    · rw [j_corrStep, toNat_j_advance _ _ _ hn' (by omega), hscored]
    · rw [cand_corrStep, cand_advance, hscored, hcand, hrun, successor_runBuffer hn hn' m len hj]

/-- What a correlation search reads when its checks pass. -/
theorem corrInput_eq_some {s : State} {k : Channel} {x : CorrInput} (h : s.corrInput k = some x) :
    s.CorrLegal k ∧ x.n = (s.chan k).deg.toNat ∧
      x.run = runBuffer x.n (s.chan k).mask (s.chan k).nreq.toNat := by
  unfold State.corrInput at h
  split at h
  · next hlegal =>
    cases h
    exact ⟨hlegal, rfl, rfl⟩
  · cases h

/-- Settles O20: a legal search scans the run of its channel's degree and mask. -/
theorem trackedCandidateIsTheRunState : Obligations.TrackedCandidateIsTheRunState := by
  intro s k x u j hparams hx hj
  obtain ⟨⟨hdegree, -⟩, hn, hrun⟩ := corrInput_eq_some hx
  obtain ⟨hmin, hmax⟩ : 2 ≤ x.n ∧ x.n ≤ s.params.dmax := hn ▸ hdegree
  obtain ⟨⟨-, hdmax⟩, -⟩ := hparams
  unfold candidate
  rw [← hn] at hj ⊢
  exact corrStep_iterate_tracks (by omega) (by omega) hrun u j hj

end Sys2Proof.Machine
end

section
/-! SUPPORT. Which commands change a FILL register (10_state.md R11, R12). -/

namespace Sys2Proof.Machine

@[simp] theorem fill_setResult (s : State) (k : Channel) (f d : Word) (c : Code) (j : Channel) :
    ((s.setResult k f d c).chan j).fill = (s.chan j).fill := by
  by_cases hj : j = k
  · subst hj
    rw [chan_setResult_same]
  · rw [chan_setResult_ne _ _ _ _ _ _ hj]

@[simp] theorem fill_corrUnit (s : State) (w : UnitId) (k j : Channel) :
    ((s.corrUnit w k).chan j).fill = (s.chan j).fill := by
  obtain ⟨u, f, d, c, e, -⟩ := corrUnit_cases s w k
  simp [e]

@[simp] theorem fill_fselUnit (s : State) (j : Channel) : (s.fselUnit.chan j).fill = (s.chan j).fill := by
  obtain ⟨u, f, d, c, e, -⟩ := fselUnit_cases s
  simp [e]

/-- `GEN k` leaves the other channels alone. -/
theorem chan_generate_ne (s : State) {j k : Channel} (h : j ≠ k) : (s.generate k).chan j = s.chan j := by
  obtain ⟨-, e⟩ | ⟨-, c, -, e⟩ := generate_cases s k <;> simp [e, h]

/-- Settles O43, command by command: a generation writes the fill of its own channel, the combination and the searches
write none. -/
theorem fillChangesOnlyByItsOwnCommands : Obligations.FillChangesOnlyByItsOwnCommands := by
  intro i s
  cases i with
  | gen ch =>
    simp only [exec, execGen]
    split
    · next k hk =>
      refine ⟨_, rfl, fun j hj => .inl ?_⟩
      rw [ofField_eq_some hk]
      by_contra hne
      have hjk : j ≠ k := by
        rintro rfl
        exact hne rfl
      exact hj (by rw [chan_generate_ne s hjk])
    · exact ⟨_, rfl, fun j hj => absurd (by simp) hj⟩
  | comb =>
    simp only [exec, execComb]
    split <;> exact ⟨_, rfl, fun j hj => absurd (by simp) hj⟩
  | corr ch =>
    simp only [exec, execCorr]
    split <;> exact ⟨_, rfl, fun j hj => absurd (by simp) hj⟩
  | corr2 => exact ⟨_, rfl, fun j hj => absurd (by simp [State.corrBoth]) hj⟩
  | fsel => exact ⟨_, rfl, fun j hj => absurd (by simp) hj⟩
  | recover =>
    simp only [exec, execRecover]
    split
    · exact ⟨_, rfl, by simp⟩
    · exact ⟨_, rfl, by simp⟩

end Sys2Proof.Machine
end

section
/-! SUPPORT. The register map of the host (10_state.md R24, R25, R31; 20_memory.md R45 to R47): the numbers of the mapped
registers, a read and a write through the map, and the registers right after reset. -/

namespace Sys2Proof.Machine

/-! ### The numbers of the mapped registers -/

/-- The offset of a channel register from its channel's base (R24). -/
def ChannelReg.offset : ChannelReg → Nat
  | .deg => 0
  | .mask => 1
  | .fill => 2
  | .nreq => 3
  | .thresh => 4
  | .rfill => 5
  | .rdist => 6
  | .rstat => 7

/-- The register number of a mapped register (R24). -/
def Reg.number : Reg → Nat
  | .cmd => 0
  | .cstat => 1
  | .glen => 2
  | .tlen => 3
  | .chan k q => 16 * channelNumber k + q.offset

/-- The registers of one channel, in the order of R24. -/
def Channel.regs (k : Channel) : List Reg :=
  [.chan k .deg, .chan k .mask, .chan k .fill, .chan k .nreq, .chan k .thresh, .chan k .rfill, .chan k .rdist,
    .chan k .rstat]

/-- Every mapped register, in the order of R24. -/
def Reg.all : List Reg := [.cmd, .cstat, .glen, .tlen] ++ Channel.regs .c1 ++ Channel.regs .c2 ++ Channel.regs .c3

theorem Reg.mem_all : ∀ q : Reg, q ∈ Reg.all
  | .cmd | .cstat | .glen | .tlen => by decide
  | .chan k q => by cases k <;> cases q <;> decide

theorem Reg.ofNumber_number : ∀ q : Reg, Reg.ofNumber q.number = some q
  | .cmd | .cstat | .glen | .tlen => rfl
  | .chan k q => by cases k <;> cases q <;> rfl

theorem Channel.ofBase_eq_some {n : Nat} {k : Channel} (h : Channel.ofBase n = some k) : channelNumber k = n := by
  unfold Channel.ofBase at h
  split_ifs at h <;> cases h <;> simp [channelNumber, *]

theorem ChannelReg.ofOffset_eq_some {n : Nat} {q : ChannelReg} (h : ChannelReg.ofOffset n = some q) :
    q.offset = n := by
  unfold ChannelReg.ofOffset at h
  split_ifs at h <;> cases h <;> simp [ChannelReg.offset, *]

theorem Reg.number_of_ofNumber {r : Nat} {q : Reg} (h : Reg.ofNumber r = some q) : q.number = r := by
  unfold Reg.ofNumber at h
  split_ifs at h with h0 h1 h2 h3
  · cases h; exact h0.symm
  · cases h; exact h1.symm
  · cases h; exact h2.symm
  · cases h; exact h3.symm
  · split at h
    · next k o hk ho =>
      cases h
      have hbase := Channel.ofBase_eq_some hk
      have hoffset := ChannelReg.ofOffset_eq_some ho
      rw [Reg.number, hbase, hoffset]
      exact Nat.div_add_mod r 16
    · cases h

/-- A register number names a register exactly when it is that register's number. -/
theorem Reg.ofNumber_eq_some_iff {r : Nat} {q : Reg} : Reg.ofNumber r = some q ↔ q.number = r :=
  ⟨Reg.number_of_ofNumber, fun h => h ▸ Reg.ofNumber_number q⟩

theorem Reg.number_inj {p q : Reg} : p.number = q.number ↔ p = q := by
  rw [← Reg.ofNumber_eq_some_iff, Reg.ofNumber_number, Option.some_inj, eq_comm]

/-! ### The register table -/

/-- The table of R24 lists every mapped register under its number, with the value a host reads. -/
theorem registerTable_eq (s : State) : registerTable s = Reg.all.map fun q => (q.number, s.readReg q) := rfl

theorem lookup_number_of_mem {f : Reg → Word} {q : Reg} : ∀ {l : List Reg}, q ∈ l →
    (l.map fun p => (p.number, f p)).lookup q.number = some (f q)
  | p :: l, h => by
    rw [List.map_cons, List.lookup_cons]
    by_cases hp : q = p
    · simp [hp]
    · have hne : (q.number == p.number) = false := by simpa [Reg.number_inj] using hp
      rw [hne]
      exact lookup_number_of_mem (List.mem_of_ne_of_mem hp h)

theorem lookup_registerTable_number (s : State) (q : Reg) :
    (registerTable s).lookup q.number = some (s.readReg q) :=
  lookup_number_of_mem (f := s.readReg) (Reg.mem_all q)

/-- The table gives at a number the value of the register it names, and nothing at an unmapped number. -/
theorem lookup_registerTable (s : State) (r : Nat) :
    (registerTable s).lookup r = (Reg.ofNumber r).map s.readReg := by
  cases hr : Reg.ofNumber r with
  | some q => rw [← Reg.number_of_ofNumber hr, lookup_registerTable_number, Option.map_some]
  | none =>
    rw [Option.map_none, List.lookup_eq_none_iff, registerTable_eq]
    intro e he
    obtain ⟨q, -, rfl⟩ := List.mem_map.mp he
    rw [bne_iff_ne]
    rintro rfl
    simp [Reg.ofNumber_number] at hr

/-- The RW numbers of R24 are those of the registers a host may write, CMD apart. -/
theorem mem_writableNumbers_iff {r : Nat} :
    r ∈ writableNumbers ↔ ∃ q, Reg.ofNumber r = some q ∧ q ≠ .cmd ∧ q.readOnly = false := by
  have table : writableNumbers = (Reg.all.filter fun q => decide (q ≠ .cmd) && !q.readOnly).map Reg.number := rfl
  simp [table, Reg.mem_all, Reg.ofNumber_eq_some_iff, and_comm]

/-! ### Reads and writes through the map -/

theorem ChannelRegs.get_set (c : ChannelRegs) (p q : ChannelReg) (v : Word) :
    (c.set q v).get p = if p = q then v else c.get p := by
  cases q <;> cases p <;> rfl

/-- A written register reads as the written value, every other one as before (R25). -/
theorem readReg_writeReg (s : State) {q : Reg} (hq : q ≠ .cmd) (v : Word) (p : Reg) :
    (s.writeReg q v).readReg p = if p = q then v else s.readReg p := by
  cases q with
  | cmd => exact absurd rfl hq
  | chan k q =>
    cases p with
    | chan j p =>
      by_cases hj : j = k
      · subst hj
        simp [State.readReg, State.writeReg, ChannelRegs.get_set]
      · simp [State.readReg, State.writeReg, hj]
    | _ => simp [State.readReg, State.writeReg]
  | _ =>
    cases p with
    | chan j p => cases j <;> rfl
    | _ => rfl

theorem readReg_setReply (s : State) (a : Reply) (q : Reg) : (s.setReply a).readReg q = s.readReg q := by
  cases q <;> simp [State.readReg]

theorem readReg_setPending (s : State) (ops : List HostOp) (q : Reg) :
    (s.setPending ops).readReg q = s.readReg q := by
  cases q <;> simp [State.readReg]

/-- A write to an RW register changes the channels and the lengths only. -/
theorem writeReg_eq (s : State) {q : Reg} (hq : q.readOnly = false) (v : Word) :
    s.writeReg q v = { s with
      ch1 := (s.writeReg q v).ch1, ch2 := (s.writeReg q v).ch2, ch3 := (s.writeReg q v).ch3
      glen := (s.writeReg q v).glen, tlen := (s.writeReg q v).tlen } := by
  cases q with
  | cstat => exact Bool.noConfusion hq
  | chan k q => cases k <;> rfl
  | _ => rfl

/-- A register read answers what the table gives. -/
theorem regRead_eq (s : State) (r : Nat) :
    s.regRead r = s.setReply (match (registerTable s).lookup r with
      | some v => .word v
      | none => .busError) := by
  rw [State.regRead, lookup_registerTable]
  cases Reg.ofNumber r <;> rfl

theorem step_regRead {s : State} {r : Nat} {rest : List HostOp} (hp : s.phase = .idle)
    (h : s.pending = .regRead r :: rest) : step s = .next ((s.setPending rest).regRead r) := by
  simp [step, State.serveNext, h, State.serve, State.whenIdle, hp]

theorem regWrite_of_writable (s : State) {r : Nat} {q : Reg} (hr : Reg.ofNumber r = some q) (hcmd : q ≠ .cmd)
    (hq : q.readOnly = false) (v : Word) : s.regWrite r v = .next ((s.writeReg q v).setReply .done) := by
  unfold State.regWrite
  rw [hr]
  cases q with
  | cmd => exact absurd rfl hcmd
  | _ => simp [hq]

/-! ### The statements -/

/-- Settles O47: the host reads through the register map, which is the table of R24. -/
theorem registerReadFollowsTheMap : Obligations.RegisterReadFollowsTheMap := by
  intro s r rest hp h
  rw [step_regRead hp h, regRead_eq]
  rfl

/-- Settles O48: an RW number names one register, whose write changes its own table entry and no other. -/
theorem registerWriteStoresRawValue : Obligations.RegisterWriteStoresRawValue := by
  intro s r v rest hp hr h
  obtain ⟨q, hq, hcmd, hrw⟩ := mem_writableNumbers_iff.mp hr
  refine ⟨_, (step_regWrite hp h).trans (regWrite_of_writable _ hq hcmd hrw v), fun r' => ?_, ?_⟩
  · rw [lookup_registerTable, lookup_registerTable]
    cases hr' : Reg.ofNumber r' with
    | none => rw [if_neg (by rintro rfl; simp [hq] at hr')]; rfl
    | some p =>
      have hnumber : r' = r ↔ p = q := by
        rw [← Reg.number_of_ofNumber hr', ← Reg.number_of_ofNumber hq, Reg.number_inj]
      simp only [Option.map_some, readReg_setReply, readReg_writeReg _ hcmd, readReg_setPending, hnumber]
      split_ifs <;> rfl
  · rw [writeReg_eq _ hrw]
    rfl

/-- Settles O49: a number that is neither CMD's nor an RW register's is unmapped or read-only. -/
theorem refusedRegisterWriteChangesNothing : Obligations.RefusedRegisterWriteChangesNothing := by
  intro s r v rest hp h0 hr h
  rw [step_regWrite hp h]
  obtain e | ⟨hcmd, -⟩ | ⟨q, hq, hcmd, hrw, -⟩ := regWrite_cases (s.setPending rest) r v
  · exact e
  · exact absurd (Reg.number_of_ofNumber hcmd).symm h0
  · exact absurd (mem_writableNumbers_iff.mpr ⟨q, hq, hcmd, hrw⟩) hr

/-- The reset value of every mapped register: DIST_NONE for the distances, 0 for all others (R31). -/
theorem readReg_reset : ∀ q : Reg, State.reset.readReg q =
    if q.number = 0x16 ∨ q.number = 0x26 ∨ q.number = 0x36 then 0xFFFFFFFF#32 else 0#32
  | .cmd | .cstat | .glen | .tlen => rfl
  | .chan k q => by cases k <;> cases q <;> rfl

/-- Settles O54, register by register. -/
theorem resetRegistersReadTheirResetValues : Obligations.ResetRegistersReadTheirResetValues := by
  refine ⟨fun r v h => ?_, rfl⟩
  rw [lookup_registerTable] at h
  obtain ⟨q, hq, rfl⟩ := Option.map_eq_some_iff.mp h
  rw [readReg_reset, Reg.number_of_ofNumber hq]

end Sys2Proof.Machine
end

section
/-! SUPPORT. The invariant of the engine between two host operations: reset meets it, and every step keeps it
(10_state.md R17 to R19, R23, R26, R28). Inside a command PHASE is not IDLE and the rest of the invariant holds, so that
rest is a predicate of its own: every operation keeps it, and the end of a command gives the invariant back. -/

namespace Sys2Proof.Machine

/-! ### Status words -/

/-- Different codes give different values of RSTAT[k]. -/
theorem rstatWord_inj {c d : Code} : rstatWord c = rstatWord d ↔ c = d := by
  cases c <;> cases d <;> decide

theorem rstatWord_ne {c d : Code} (h : c ≠ d) : rstatWord c ≠ rstatWord d := mt rstatWord_inj.mp h

/-- Which channel CSTAT may blame for a code: none for NONE, OK and ILLEGAL_COMMAND, a channel for RECOVERY_FAILURE and
DEGENERATE_STATE, and either for INVALID_PARAMETER (60_exceptions.md R180). -/
def Code.MayBlame : Code → BitVec 2 → Prop
  | .none, b => b = 0#2
  | .ok, b => b = 0#2
  | .recoveryFailure, b => b ≠ 0#2
  | .invalidParameter, _ => True
  | .degenerateState, b => b ≠ 0#2
  | .illegalCommand, b => b = 0#2

theorem upperBits_cstatWord (c : BitVec 4) (b : BitVec 2) : (cstatWord c b).extractLsb' 6 26 = 0#26 := by
  revert c b
  decide

/-- The status words a command writes are outcomes. -/
theorem cstatLegal_cstatWord {c : Code} {b : BitVec 2} (h : c.MayBlame b) : CstatLegal (cstatWord c.bits b) := by
  have hcode : (cstatWord c.bits b).extractLsb' 0 4 = c.bits := codeField_cstatWord c.bits b
  have hblame : (cstatWord c.bits b).extractLsb' 4 2 = b := blameField_cstatWord c.bits b
  refine ⟨upperBits_cstatWord c.bits b, ?_⟩
  rw [hcode, hblame]
  cases c with
  | invalidParameter => simp [Code.bits]
  | _ => simpa [Code.MayBlame, Code.bits] using h

/-- The status of a search that ended without OK, blamed on its channel, is an outcome: the code is RECOVERY_FAILURE or
INVALID_PARAMETER. -/
theorem cstatLegal_of_failed {w : Word} (hlegal : RstatLegal w) (hnone : w ≠ rstatWord .none)
    (hok : w ≠ rstatWord .ok) (k : Channel) : CstatLegal (cstatWord (codeField w) k.field) := by
  rcases hlegal with rfl | rfl | rfl | rfl
  · exact absurd rfl hnone
  · exact absurd rfl hok
  · exact cstatLegal_cstatWord (c := .recoveryFailure) (field_ne_zero k)
  · exact cstatLegal_cstatWord (c := .invalidParameter) trivial

/-! ### The result registers of a channel -/

/-- The values the three result registers may be given together: a nonzero fill and a real distance with OK, else 0 and
DIST_NONE with NONE or an error of a search (10_state.md R17 to R19). -/
inductive SearchOutcome : Word → Word → Code → Prop
  | found {f d : Word} (hf : f ≠ 0#32) (hd : d ≠ distNone) : SearchOutcome f d .ok
  | failed : SearchOutcome 0#32 distNone .recoveryFailure
  | rejected : SearchOutcome 0#32 distNone .invalidParameter
  | cleared : SearchOutcome 0#32 distNone .none

/-- What the invariant says of one channel. -/
def ChannelRegs.Sound (c : ChannelRegs) : Prop := RstatLegal c.rstat ∧ ResultCoherent c

/-- Only the result registers count. -/
theorem ChannelRegs.Sound.of_sameResult {c d : ChannelRegs} (h : c.Sound) (e : SameResult d c) : d.Sound := by
  obtain ⟨hf, hd, hr⟩ := e
  unfold ChannelRegs.Sound ResultCoherent
  rw [hf, hd, hr]
  exact h

theorem SearchOutcome.channelSound {f d : Word} {c : Code} (h : SearchOutcome f d c) (r : ChannelRegs) :
    ChannelRegs.Sound { r with rfill := f, rdist := d, rstat := rstatWord c } := by
  cases h with
  | found hf hd => exact ⟨.inr (.inl rfl), .inl ⟨rfl, hf, hd⟩⟩
  | failed => exact ⟨.inr (.inr (.inl rfl)), .inr ⟨rstatWord_ne (d := .ok) (by simp), rfl, rfl⟩⟩
  | rejected => exact ⟨.inr (.inr (.inr rfl)), .inr ⟨rstatWord_ne (d := .ok) (by simp), rfl, rfl⟩⟩
  | cleared => exact ⟨.inl rfl, .inr ⟨rstatWord_ne (d := .ok) (by simp), rfl, rfl⟩⟩

theorem channelSound_reset : ChannelRegs.reset.Sound := SearchOutcome.cleared.channelSound ChannelRegs.reset

/-- A correlation search writes its channel's result registers, and never the status NONE. -/
theorem corrUnit_outcome (s : State) (w : UnitId) (k : Channel) :
    ∃ u f d c, s.corrUnit w k = (s.setUnit w u).setResult k f d c ∧ SearchOutcome f d c ∧ c ≠ .none := by
  obtain ⟨u, f, d, c, e, ⟨rfl, hf, hd, -⟩ | ⟨rfl, rfl, rfl, -⟩ | ⟨rfl, rfl, rfl, -⟩⟩ := corrUnit_cases s w k
  · exact ⟨u, _, _, _, e, .found hf hd, by simp⟩
  · exact ⟨u, _, _, _, e, .failed, by simp⟩
  · exact ⟨u, _, _, _, e, .rejected, by simp⟩

/-- The consistency search writes channel 3's result registers, and never the status NONE. -/
theorem fselUnit_outcome (s : State) :
    ∃ u f d c, s.fselUnit = (s.setUnit .a u).setResult .c3 f d c ∧ SearchOutcome f d c ∧ c ≠ .none := by
  obtain ⟨u, f, d, c, e, ⟨rfl, hf, rfl, -⟩ | ⟨rfl, rfl, rfl, -⟩ | ⟨rfl, rfl, rfl, -⟩⟩ := fselUnit_cases s
  · exact ⟨u, _, _, _, e, .found hf (by decide), by simp⟩
  · exact ⟨u, _, _, _, e, .failed, by simp⟩
  · exact ⟨u, _, _, _, e, .rejected, by simp⟩

theorem rstat_corrUnit_ne_none (s : State) (w : UnitId) (k : Channel) :
    ((s.corrUnit w k).chan k).rstat ≠ rstatWord .none := by
  obtain ⟨u, f, d, c, e, -, hc⟩ := corrUnit_outcome s w k
  rw [e, chan_setResult_same]
  exact rstatWord_ne hc

theorem rstat_fselUnit_ne_none (s : State) : (s.fselUnit.chan .c3).rstat ≠ rstatWord .none := by
  obtain ⟨u, f, d, c, e, -, hc⟩ := fselUnit_outcome s
  rw [e, chan_setResult_same]
  exact rstatWord_ne hc

theorem rstat_corrBoth_ne_none (s : State) {k : Channel} (hk : k = .c1 ∨ k = .c2) :
    (s.corrBoth.chan k).rstat ≠ rstatWord .none := by
  unfold State.corrBoth
  rcases hk with rfl | rfl
  · rw [chan_corrUnit_ne _ _ _ _ (by decide)]
    exact rstat_corrUnit_ne_none s .a .c1
  · exact rstat_corrUnit_ne_none _ .b .c2

/-! ### The invariant inside a command -/

/-- The invariant but for PHASE: what also holds inside a command. -/
structure State.Sound (s : State) : Prop where
  params : s.params.Legal
  cstat : CstatLegal s.cstat
  channels : ∀ k, (s.chan k).Sound
  memories : ∀ sp, MemoryLegal s.params.lmax (s.mem sp)

theorem State.invariant_iff (s : State) : s.Invariant ↔ s.Sound ∧ s.phase = .idle :=
  ⟨fun h => ⟨⟨h.params, h.cstat, fun k => ⟨h.rstat k, h.results k⟩, h.memories⟩, h.phase⟩,
    fun ⟨h, hp⟩ => ⟨h.params, hp, h.cstat, fun k => (h.channels k).1, fun k => (h.channels k).2, h.memories⟩⟩

/-- An update of the other registers, of a search unit, of PHASE or of the host's side keeps soundness. -/
theorem State.Sound.of_frame {s t : State} (h : s.Sound) (hp : t.params = s.params) (hc : t.cstat = s.cstat)
    (hk : ∀ k, SameResult (t.chan k) (s.chan k)) (hm : ∀ sp, t.mem sp = s.mem sp) : t.Sound where
  params := hp ▸ h.params
  cstat := hc ▸ h.cstat
  channels k := (h.channels k).of_sameResult (hk k)
  memories sp := by
    rw [hp, hm]
    exact h.memories sp

theorem SameResult.of_eq {c d : ChannelRegs} (h : c = d) : SameResult c d := h ▸ ⟨rfl, rfl, rfl⟩

theorem State.Sound.setPhase {s : State} (h : s.Sound) (p : Phase) : (s.setPhase p).Sound :=
  h.of_frame (by simp) (by simp) (fun _ => .of_eq (by simp)) (by simp)

theorem State.Sound.setUnit {s : State} (h : s.Sound) (w : UnitId) (u : SearchUnit) : (s.setUnit w u).Sound :=
  h.of_frame (by simp) (by simp) (fun _ => .of_eq (by simp)) (by simp)

theorem State.Sound.setResult {s : State} (h : s.Sound) (k : Channel) {f d : Word} {c : Code}
    (hr : SearchOutcome f d c) : (s.setResult k f d c).Sound where
  params := by simpa using h.params
  cstat := by simpa using h.cstat
  channels j := by
    by_cases hj : j = k
    · subst hj
      rw [chan_setResult_same]
      exact hr.channelSound _
    · rw [chan_setResult_ne _ _ _ _ _ _ hj]
      exact h.channels j
  memories sp := by simpa using h.memories sp

theorem State.Sound.corrUnit {s : State} (h : s.Sound) (w : UnitId) (k : Channel) : (s.corrUnit w k).Sound := by
  obtain ⟨u, f, d, c, e, hr, -⟩ := corrUnit_outcome s w k
  rw [e]
  exact (h.setUnit w u).setResult k hr

theorem State.Sound.corrBoth {s : State} (h : s.Sound) : s.corrBoth.Sound := (h.corrUnit .a .c1).corrUnit .b .c2

theorem State.Sound.fselUnit {s : State} (h : s.Sound) : s.fselUnit.Sound := by
  obtain ⟨u, f, d, c, e, hr, -⟩ := fselUnit_outcome s
  rw [e]
  exact (h.setUnit .a u).setResult .c3 hr

theorem State.Sound.generateInto {s : State} (h : s.Sound) (k : Channel) (f : Word) {len : Nat}
    (hl : len ≤ s.params.lmax) : (s.generateInto k f len).Sound where
  params := by simpa using h.params
  cstat := by simpa using h.cstat
  channels j := by
    refine (h.channels j).of_sameResult ?_
    by_cases hj : j = k
    · subst hj
      rw [chan_generateInto_same]
      exact ⟨rfl, rfl, rfl⟩
    · exact .of_eq (chan_generateInto_ne _ _ _ _ _ hj)
  memories sp := by
    rw [params_generateInto]
    exact MemoryLegal.generateInto h.memories k f len hl sp

theorem State.Sound.combineInto {s : State} (h : s.Sound) {len : Nat} (hl : len ≤ s.params.lmax) :
    (s.combineInto len).Sound where
  params := by simpa using h.params
  cstat := by simpa using h.cstat
  channels k := by simpa using h.channels k
  memories sp := by
    rw [params_combineInto]
    exact MemoryLegal.combineInto h.memories len hl sp

/-! ### The end of a command -/

/-- A command that ends with an outcome leaves the invariant: PHASE is IDLE again (60_exceptions.md R186). -/
theorem State.Sound.conclude {s : State} (h : s.Sound) {c : BitVec 4} {b : BitVec 2}
    (hc : CstatLegal (cstatWord c b)) : (s.conclude c b).Invariant :=
  (State.invariant_iff _).mpr
    ⟨⟨by simpa using h.params, by simpa using hc, by simpa using h.channels, by simpa using h.memories⟩, rfl⟩

theorem State.Sound.raise {s : State} (h : s.Sound) {c : Code} {b : BitVec 2} (hb : c.MayBlame b) :
    (s.raise c b).Invariant := h.conclude (cstatLegal_cstatWord hb)

theorem State.Sound.concludeOk {s : State} (h : s.Sound) : s.concludeOk.Invariant := h.raise (c := .ok) rfl

theorem State.Sound.raiseIllegal {s : State} (h : s.Sound) : s.raiseIllegal.Invariant := h.raise rfl

/-- A command that stops at a failed search on channel `k` reports the search's own outcome. -/
theorem State.Sound.conclude_failed {s : State} (h : s.Sound) {k : Channel}
    (hnone : (s.chan k).rstat ≠ rstatWord .none) (hfail : s.searchOk k = false) :
    (s.conclude (codeField (s.chan k).rstat) k.field).Invariant :=
  h.conclude (cstatLegal_of_failed (h.channels k).1 hnone (of_decide_eq_false hfail) k)

theorem State.Sound.concludeSearch {s : State} (h : s.Sound) {ks : List Channel}
    (hnone : ∀ k ∈ ks, (s.chan k).rstat ≠ rstatWord .none) : (s.concludeSearch ks).Invariant := by
  obtain ⟨k, hk, hfail, e⟩ | ⟨-, e⟩ := concludeSearch_cases s ks
  · rw [e]
    exact h.conclude_failed (hnone k hk) hfail
  · rw [e]
    exact h.concludeOk

/-! ### The commands -/

theorem State.Sound.generate {s : State} (h : s.Sound) (k : Channel) : (s.generate k).Invariant := by
  obtain ⟨⟨-, -, hlen, -, -⟩, e⟩ | ⟨-, c, rfl | rfl, e⟩ := generate_cases s k
  · rw [e]
    exact (h.generateInto k _ hlen).concludeOk
  · rw [e]
    exact h.raise trivial
  · rw [e]
    exact h.raise (field_ne_zero k)

theorem execGen_invariant {s : State} (h : s.Sound) (ch : BitVec 2) :
    ∃ t, execGen ch s = .next t ∧ t.Invariant := by
  unfold execGen
  split
  · exact ⟨_, rfl, h.generate _⟩
  · exact ⟨_, rfl, h.raiseIllegal⟩

theorem execComb_invariant {s : State} (h : s.Sound) : ∃ t, execComb s = .next t ∧ t.Invariant := by
  unfold execComb
  split
  · exact ⟨_, rfl, h.raise trivial⟩
  · next hlen => exact ⟨_, rfl, (h.combineInto (not_not.mp hlen)).concludeOk⟩

theorem execCorr_invariant {s : State} (h : s.Sound) (ch : BitVec 2) :
    ∃ t, execCorr ch s = .next t ∧ t.Invariant := by
  unfold execCorr
  split
  · next k _ =>
    exact ⟨_, rfl, (h.corrUnit .a k).concludeSearch (by simpa using rstat_corrUnit_ne_none s .a k)⟩
  · exact ⟨_, rfl, h.raiseIllegal⟩

theorem execCorr2_invariant {s : State} (h : s.Sound) : ∃ t, execCorr2 s = .next t ∧ t.Invariant :=
  ⟨_, rfl, h.corrBoth.concludeSearch fun _ hk => rstat_corrBoth_ne_none s (by simpa using hk)⟩

theorem execFsel_invariant {s : State} (h : s.Sound) : ∃ t, execFsel s = .next t ∧ t.Invariant :=
  ⟨_, rfl, h.fselUnit.concludeSearch (by simpa using rstat_fselUnit_ne_none s)⟩

/-! ### RECOVER -/

/-- Everything `RECOVER` can do once it has cleared the results (44_recover_pipeline.md R161, R162): mark the channels
whose checks fail and report one of them, or run its stages. -/
theorem execRecover_cases (s : State) :
    (∃ k, execRecover s =
      .next ((((((s.setPhase .check).clearResults).markBad .c1).markBad .c2).markBad .c3).raise
        .invalidParameter (Channel.field k))) ∨
    ((∀ k, (s.setPhase .check).clearResults.recoverLegal k = true) ∧
      execRecover s = .next (s.setPhase .check).clearResults.recoverStages) := by
  simp only [execRecover]
  split
  · next k _ => exact .inl ⟨k, rfl⟩
  · next hf =>
    refine .inr ⟨fun k => ?_, rfl⟩
    have hk : k ∈ [Channel.c1, .c2, .c3] := by cases k <;> simp
    simpa using List.find?_eq_none.mp hf k hk

@[simp] theorem params_recoverSearch (s : State) : s.recoverSearch.params = s.params := by
  simp [State.recoverSearch, State.corrBoth]

@[simp] theorem params_recoverRegenerate (s : State) : s.recoverRegenerate.params = s.params := by
  simp [State.recoverRegenerate]

@[simp] theorem params_recoverSelect (s : State) : s.recoverSelect.params = s.params := by
  simp [State.recoverSelect]

theorem State.Sound.clearResults {s : State} (h : s.Sound) : s.clearResults.Sound :=
  ((h.setResult .c1 .cleared).setResult .c2 .cleared).setResult .c3 .cleared

theorem State.Sound.markBad {s : State} (h : s.Sound) (k : Channel) : (s.markBad k).Sound := by
  unfold State.markBad
  split
  · exact h
  · exact h.setResult k .rejected

theorem State.Sound.recoverSearch {s : State} (h : s.Sound) : s.recoverSearch.Sound := (h.setPhase .scan12).corrBoth

theorem State.Sound.recoverRegenerate {s : State} (h : s.Sound) (hl : s.tlen.toNat ≤ s.params.lmax) :
    s.recoverRegenerate.Sound :=
  ((h.setPhase .regen).generateInto .c1 _ hl).generateInto .c2 _ (by simpa using hl)

theorem State.Sound.recoverSelect {s : State} (h : s.Sound) : s.recoverSelect.Sound := (h.setPhase .scan3).fselUnit

theorem State.Sound.recoverVerify {s : State} (h : s.Sound) (hl : s.tlen.toNat ≤ s.params.lmax) :
    s.recoverVerify.Sound :=
  ((h.setPhase .verify).generateInto .c3 _ hl).combineInto (by simpa using hl)

/-- The stages of `RECOVER` write sequences of length N, which the checks bound by the capacity. -/
theorem State.Sound.recoverStages {s : State} (h : s.Sound) (hl : s.tlen.toNat ≤ s.params.lmax) :
    s.recoverStages.Invariant := by
  have h3 : s.recoverSearch.recoverRegenerate.recoverSelect.Sound :=
    (h.recoverSearch.recoverRegenerate (by simpa using hl)).recoverSelect
  obtain ⟨k, hk, hfail, e⟩ | ⟨-, -, hfail, e⟩ | ⟨-, -, -, e⟩ := recoverStages_cases s
  · rw [e]
    exact h.recoverSearch.conclude_failed (rstat_corrBoth_ne_none _ hk) hfail
  · rw [e]
    exact h3.conclude_failed (rstat_fselUnit_ne_none _) hfail
  · rw [e]
    exact (h3.recoverVerify (by simpa using hl)).concludeOk

theorem execRecover_invariant {s : State} (h : s.Sound) : ∃ t, execRecover s = .next t ∧ t.Invariant := by
  have hcleared := (h.setPhase .check).clearResults
  obtain ⟨k, e⟩ | ⟨hlegal, e⟩ := execRecover_cases s
  · exact ⟨_, e, (((hcleared.markBad .c1).markBad .c2).markBad .c3).raise trivial⟩
  · obtain ⟨-, -, -, hlen⟩ : (s.setPhase .check).clearResults.FselLegal := of_decide_eq_true (hlegal .c3)
    exact ⟨_, e, hcleared.recoverStages hlen⟩

/-- Every command answers a next state, which meets the invariant. -/
theorem exec_invariant {s : State} (h : s.Sound) (i : Instr) : ∃ t, exec i s = .next t ∧ t.Invariant := by
  cases i with
  | gen ch => exact execGen_invariant h ch
  | comb => exact execComb_invariant h
  | corr ch => exact execCorr_invariant h ch
  | corr2 => exact execCorr2_invariant h
  | fsel => exact execFsel_invariant h
  | recover => exact execRecover_invariant h

theorem runCommand_invariant {s : State} (h : s.Sound) (w : Word) : ∃ t, runCommand w s = .next t ∧ t.Invariant := by
  unfold runCommand
  split
  · exact exec_invariant h _
  · exact ⟨_, rfl, h.raiseIllegal⟩

/-! ### The host's operations -/

theorem State.Sound.setReply {s : State} (h : s.Sound) (r : Reply) : (s.setReply r).Sound :=
  h.of_frame (by simp) (by simp) (fun _ => .of_eq (by simp)) (by simp)

theorem State.Invariant.setReply {s : State} (h : s.Invariant) (r : Reply) : (s.setReply r).Invariant := by
  rw [State.invariant_iff] at h ⊢
  exact ⟨h.1.setReply r, h.2⟩

theorem State.Invariant.setPending {s : State} (h : s.Invariant) (ops : List HostOp) :
    (s.setPending ops).Invariant := by
  rw [State.invariant_iff] at h ⊢
  exact ⟨h.1.of_frame (by simp) (by simp) (fun _ => .of_eq (by simp)) (by simp), h.2⟩

/-- A write to an RW register writes no status and no result register. -/
theorem sameResult_writeReg (s : State) {q : Reg} (hq : q.readOnly = false) (v : Word) (k : Channel) :
    SameResult ((s.writeReg q v).chan k) (s.chan k) := by
  cases q with
  | cmd => exact .of_eq rfl
  | cstat => exact Bool.noConfusion hq
  | glen => exact .of_eq (by cases k <;> rfl)
  | tlen => exact .of_eq (by cases k <;> rfl)
  | chan j q =>
    by_cases hj : k = j
    · subst hj
      rw [State.writeReg, chan_setChan_same]
      cases q
      case rfill | rdist | rstat => exact Bool.noConfusion hq
      all_goals exact ⟨rfl, rfl, rfl⟩
    · exact .of_eq (chan_setChan_ne _ _ _ _ hj)

@[simp] theorem params_writeReg (s : State) (q : Reg) (v : Word) : (s.writeReg q v).params = s.params := by
  cases q <;> simp [State.writeReg]

@[simp] theorem phase_writeReg (s : State) (q : Reg) (v : Word) : (s.writeReg q v).phase = s.phase := by
  cases q <;> simp [State.writeReg]

@[simp] theorem mem_writeReg (s : State) (q : Reg) (v : Word) (sp : Space) :
    (s.writeReg q v).mem sp = s.mem sp := by
  cases q with
  | chan k q => simp [State.writeReg]
  | _ => rcases sp with _ | (_ | _ | _) | _ <;> rfl

theorem cstat_writeReg (s : State) {q : Reg} (hq : q.readOnly = false) (v : Word) :
    (s.writeReg q v).cstat = s.cstat := by
  cases q with
  | cstat => exact Bool.noConfusion hq
  | chan k q => simp [State.writeReg]
  | _ => rfl

theorem State.Invariant.writeReg {s : State} (h : s.Invariant) {q : Reg} (hq : q.readOnly = false) (v : Word) :
    (s.writeReg q v).Invariant := by
  rw [State.invariant_iff] at h ⊢
  exact ⟨h.1.of_frame (by simp) (cstat_writeReg s hq v) (sameResult_writeReg s hq v) (by simp), by simpa using h.2⟩

theorem regWrite_invariant {s : State} (h : s.Invariant) (r : Nat) (v : Word) :
    ∃ t, s.regWrite r v = .next t ∧ t.Invariant := by
  obtain e | ⟨-, e⟩ | ⟨q, -, -, hq, e⟩ := regWrite_cases s r v
  · exact ⟨_, e, h.setReply _⟩
  · rw [e]
    exact runCommand_invariant (((State.invariant_iff s).mp h).1.setReply _) v
  · exact ⟨_, e, (h.writeReg hq v).setReply _⟩

theorem State.Invariant.setBit {s : State} (h : s.Invariant) (sp : Space) {a : Nat} (ha : a < s.params.lmax)
    (b : Bool) : (s.setBit sp a b).Invariant where
  params := by simpa using h.params
  phase := by simpa using h.phase
  cstat := by simpa using h.cstat
  rstat := by simpa using h.rstat
  results := by simpa using h.results
  memories sp' := by
    rw [params_setBit]
    by_cases hsp : sp' = sp
    · subst hsp
      rw [State.setBit, mem_setMem_same]
      exact (h.memories sp').write a b ha
    · rw [State.setBit, mem_setMem_ne _ _ _ _ hsp]
      exact h.memories sp'

theorem State.Invariant.memWrite {s : State} (h : s.Invariant) (space addr : Nat) (b : Bool) :
    (s.memWrite space addr b).Invariant := by
  obtain e | ⟨sp, -, ha, e⟩ := memWrite_cases s space addr b
  · rw [e]
    exact h.setReply _
  · rw [e]
    exact (h.setBit sp ha b).setReply _

/-- The registers at their reset values and the memories empty meet the invariant at any legal parameters, whatever the
model's own fields hold. -/
theorem invariant_resetWith {p : Params} (hp : p.Legal) (e : Nat) (ops : List HostOp) (r : Reply) :
    { State.reset with params := p, memEpoch := e, pending := ops, reply := r }.Invariant where
  params := hp
  phase := rfl
  cstat := cstatLegal_cstatWord (c := .none) (b := 0#2) rfl
  rstat k := by cases k <;> exact channelSound_reset.1
  results k := by cases k <;> exact channelSound_reset.2
  memories sp := by rcases sp with _ | (_ | _ | _) | _ <;> exact ⟨.nil, fun _ hc => nomatch hc⟩

theorem serve_invariant {s : State} (h : s.Invariant) (op : HostOp) : ∃ t, s.serve op = .next t ∧ t.Invariant := by
  have hidle : ∀ o, s.whenIdle o = o := fun _ => if_pos h.phase
  cases op with
  | regRead r =>
    obtain ⟨a, e⟩ := regRead_cases s r
    exact ⟨_, hidle _, e ▸ h.setReply a⟩
  | regWrite r v =>
    rw [State.serve, hidle]
    exact regWrite_invariant h r v
  | memRead space addr =>
    obtain ⟨a, e⟩ := memRead_cases s space addr
    exact ⟨_, hidle _, e ▸ h.setReply a⟩
  | memWrite space addr b => exact ⟨_, hidle _, h.memWrite space addr b⟩
  | reset => exact ⟨_, rfl, invariant_resetWith h.params _ _ _⟩

/-- Settles O57: the reset state is the one with the default parameters. -/
theorem resetMeetsTheInvariant : Obligations.ResetMeetsTheInvariant :=
  invariant_resetWith (by decide) 0 [] .none

/-- Settles O58: an empty queue changes nothing, and every host operation keeps the invariant. -/
theorem everyStepKeepsTheInvariant : Obligations.EveryStepKeepsTheInvariant := by
  intro s h
  unfold step State.serveNext
  split
  · exact ⟨s, rfl, h⟩
  · next op rest _ => exact serve_invariant (h.setPending rest) op

end Sys2Proof.Machine
end

section
/-! SUPPORT. The frame of every command: it ends with the sequencer idle, leaves the host's side alone, and writes only
the memory elements listed for it (20_memory.md R41, R52; 60_exceptions.md R186). -/

namespace Sys2Proof.Machine

/-! ### The frame of an operation -/

/-- From `s` to `t` the host's side is left alone, and no memory element outside `W` changes. -/
structure WritesWithin (W : Space → Nat → Prop) (s t : State) : Prop where
  host : SameHostSide s t
  memory : ∀ sp a, ¬ W sp a → t.bitAt sp a = s.bitAt sp a

theorem WritesWithin.trans {W : Space → Nat → Prop} {s t u : State} (h : WritesWithin W s t)
    (g : WritesWithin W t u) : WritesWithin W s u := by
  obtain ⟨⟨hp, he, hq, hr⟩, hm⟩ := h
  obtain ⟨⟨gp, ge, gq, gr⟩, gm⟩ := g
  exact ⟨⟨gp.trans hp, ge.trans he, gq.trans hq, gr.trans hr⟩, fun sp a ha => (gm sp a ha).trans (hm sp a ha)⟩

/-- An update that leaves the five memories alone writes within any set of elements. -/
theorem WritesWithin.of_mem_eq {W : Space → Nat → Prop} {s t : State} (hh : SameHostSide s t)
    (hm : ∀ sp, t.mem sp = s.mem sp) : WritesWithin W s t := by
  have ⟨_, hepoch, _, _⟩ := hh
  exact ⟨hh, fun sp a _ => bitAt_congr (hm sp) hepoch a⟩

theorem WritesWithin.refl (W : Space → Nat → Prop) (s : State) : WritesWithin W s s :=
  .of_mem_eq ⟨rfl, rfl, rfl, rfl⟩ fun _ => rfl

section
variable {W : Space → Nat → Prop} {s t : State}

theorem WritesWithin.setPhase (h : WritesWithin W s t) (p : Phase) : WritesWithin W s (t.setPhase p) :=
  h.trans (.of_mem_eq (by simp [SameHostSide]) (by simp))

theorem WritesWithin.failSearch (h : WritesWithin W s t) (k : Channel) (c : Code) :
    WritesWithin W s (t.failSearch k c) :=
  h.trans (.of_mem_eq (by simp [SameHostSide]) (by simp))

theorem WritesWithin.corrUnit (h : WritesWithin W s t) (w : UnitId) (k : Channel) :
    WritesWithin W s (t.corrUnit w k) :=
  h.trans (.of_mem_eq (by simp [SameHostSide]) (by simp))

theorem WritesWithin.corrBoth (h : WritesWithin W s t) : WritesWithin W s t.corrBoth :=
  (h.corrUnit .a .c1).corrUnit .b .c2

theorem WritesWithin.fselUnit (h : WritesWithin W s t) : WritesWithin W s t.fselUnit :=
  h.trans (.of_mem_eq (by simp [SameHostSide]) (by simp))

/-- A generation writes the first `len` elements of SEQ[k]. -/
theorem WritesWithin.generateInto (h : WritesWithin W s t) (k : Channel) (f : Word) {len : Nat}
    (hw : ∀ a, a < len → W (.seq k) a) : WritesWithin W s (t.generateInto k f len) := by
  refine h.trans ⟨by simp [SameHostSide], fun sp a ha => ?_⟩
  rw [bitAt_generateInto, if_neg]
  rintro ⟨rfl, hlt⟩
  exact ha (hw a hlt)

/-- A combination writes the first `len` elements of OUT. -/
theorem WritesWithin.combineInto (h : WritesWithin W s t) {len : Nat} (hw : ∀ a, a < len → W .out a) :
    WritesWithin W s (t.combineInto len) := by
  refine h.trans ⟨by simp [SameHostSide], fun sp a ha => ?_⟩
  rw [bitAt_combineInto, if_neg]
  rintro ⟨rfl, hlt⟩
  exact ha (hw a hlt)

end

/-! ### The end of a command -/

/-- What a command that may write the elements of `W` leaves: the frame, and the sequencer idle. -/
structure EndsWithin (W : Space → Nat → Prop) (s t : State) : Prop extends WritesWithin W s t where
  idle : t.phase = .idle

section
variable {W : Space → Nat → Prop} {s t : State}

theorem WritesWithin.conclude (h : WritesWithin W s t) (c : BitVec 4) (b : BitVec 2) :
    EndsWithin W s (t.conclude c b) :=
  ⟨h.trans (.of_mem_eq (by simp [SameHostSide]) (by simp)), rfl⟩

theorem WritesWithin.concludeOk (h : WritesWithin W s t) : EndsWithin W s t.concludeOk := h.conclude _ _

theorem WritesWithin.raise (h : WritesWithin W s t) (c : Code) (b : BitVec 2) : EndsWithin W s (t.raise c b) :=
  h.conclude _ _

theorem WritesWithin.raiseIllegal (h : WritesWithin W s t) : EndsWithin W s t.raiseIllegal := h.raise _ _

theorem WritesWithin.concludeSearch (h : WritesWithin W s t) (ks : List Channel) :
    EndsWithin W s (t.concludeSearch ks) := by
  obtain ⟨k, -, -, e⟩ | ⟨-, e⟩ := concludeSearch_cases t ks
  · exact e ▸ h.conclude _ _
  · exact e ▸ h.concludeOk

end

/-! ### RECOVER -/

section
variable {W : Space → Nat → Prop} {s t : State}

theorem WritesWithin.clearResults (h : WritesWithin W s t) : WritesWithin W s t.clearResults :=
  ((h.failSearch .c1 .none).failSearch .c2 .none).failSearch .c3 .none

theorem WritesWithin.markBad (h : WritesWithin W s t) (k : Channel) : WritesWithin W s (t.markBad k) := by
  unfold State.markBad
  split
  · exact h
  · exact h.failSearch k .invalidParameter

theorem WritesWithin.recoverSearch (h : WritesWithin W s t) : WritesWithin W s t.recoverSearch :=
  (h.setPhase .scan12).corrBoth

theorem WritesWithin.recoverRegenerate (h : WritesWithin W s t)
    (hw : ∀ sp a, sp ≠ .tgt → a < t.tlen.toNat → W sp a) : WritesWithin W s t.recoverRegenerate :=
  ((h.setPhase .regen).generateInto .c1 _ fun a => hw _ a (by simp)).generateInto .c2 _
    fun a ha => hw _ a (by simp) (by simpa using ha)

theorem WritesWithin.recoverSelect (h : WritesWithin W s t) : WritesWithin W s t.recoverSelect :=
  (h.setPhase .scan3).fselUnit

theorem WritesWithin.recoverVerify (h : WritesWithin W s t)
    (hw : ∀ sp a, sp ≠ .tgt → a < t.tlen.toNat → W sp a) : WritesWithin W s t.recoverVerify :=
  ((h.setPhase .verify).generateInto .c3 _ fun a => hw _ a (by simp)).combineInto fun a => hw _ a (by simp)

/-- The stages of `RECOVER` write the first N elements of the memories other than TGT, wherever they stop. -/
theorem WritesWithin.recoverStages (h : WritesWithin W s t)
    (hw : ∀ sp a, sp ≠ .tgt → a < t.tlen.toNat → W sp a) : EndsWithin W s t.recoverStages := by
  have h3 : WritesWithin W s t.recoverSearch.recoverRegenerate.recoverSelect :=
    (h.recoverSearch.recoverRegenerate (by simpa using hw)).recoverSelect
  obtain ⟨k, -, -, e⟩ | ⟨-, -, -, e⟩ | ⟨-, -, -, e⟩ := recoverStages_cases t
  · exact e ▸ h.recoverSearch.conclude _ _
  · exact e ▸ h3.conclude _ _
  · exact e ▸ (h3.recoverVerify (by simpa using hw)).concludeOk

end

theorem execRecover_endsWithin (s : State) :
    ∃ t, execRecover s = .next t ∧ EndsWithin (MayWrite .recover s) s t := by
  have hcleared : WritesWithin (MayWrite .recover s) s (s.setPhase .check).clearResults :=
    ((WritesWithin.refl _ s).setPhase .check).clearResults
  obtain ⟨k, e⟩ | ⟨-, e⟩ := execRecover_cases s
  · exact ⟨_, e, (((hcleared.markBad .c1).markBad .c2).markBad .c3).raise _ _⟩
  · exact ⟨_, e, hcleared.recoverStages fun sp a hsp ha => .inr (.inr ⟨rfl, hsp, by simpa using ha⟩)⟩

/-! ### Every command -/

theorem generate_endsWithin (s : State) (k : Channel) : EndsWithin (MayWrite (.gen k.field) s) s (s.generate k) := by
  obtain ⟨-, e⟩ | ⟨-, c, -, e⟩ := generate_cases s k
  · exact e ▸ ((WritesWithin.refl _ s).generateInto k _ fun a ha => .inl ⟨k, rfl, rfl, ha⟩).concludeOk
  · exact e ▸ (WritesWithin.refl _ s).raise c _

/-- Every command ends with the sequencer idle, and has changed of the memories only the elements R52 lists for it and
of the host's side nothing. -/
theorem exec_endsWithin (i : Instr) (s : State) : ∃ t, exec i s = .next t ∧ EndsWithin (MayWrite i s) s t := by
  have h : WritesWithin (MayWrite i s) s s := .refl _ s
  cases i with
  | gen ch =>
    simp only [exec, execGen]
    split
    · next k hk =>
      obtain rfl := ofField_eq_some hk
      exact ⟨_, rfl, generate_endsWithin s k⟩
    · exact ⟨_, rfl, h.raiseIllegal⟩
  | comb =>
    simp only [exec, execComb]
    split
    · exact ⟨_, rfl, h.raise _ _⟩
    · exact ⟨_, rfl, (h.combineInto fun a ha => .inr (.inl ⟨rfl, rfl, ha⟩)).concludeOk⟩
  | corr ch =>
    simp only [exec, execCorr]
    split
    · next k _ => exact ⟨_, rfl, (h.corrUnit .a k).concludeSearch [k]⟩
    · exact ⟨_, rfl, h.raiseIllegal⟩
  | corr2 => exact ⟨_, rfl, h.corrBoth.concludeSearch _⟩
  | fsel => exact ⟨_, rfl, h.fselUnit.concludeSearch _⟩
  | recover => exact execRecover_endsWithin s

/-- Settles O41: the memory half of the frame of every command. -/
theorem commandsWriteOnlyListedElements : Obligations.CommandsWriteOnlyListedElements := by
  intro i s
  obtain ⟨t, e, h⟩ := exec_endsWithin i s
  exact ⟨t, e, h.memory⟩

end Sys2Proof.Machine
end

section
/-! SUPPORT. The host's accesses to the memories and to CMD (20_memory.md R40, R45 to R49; 30_encoding.md R60). -/

namespace Sys2Proof.Machine

/-! ### The space ids -/

/-- The space ids with the memories they name (20_memory.md R40). -/
def Space.table : List (Nat × Space) :=
  [(0, .tgt), (1, .seq .c1), (2, .seq .c2), (3, .seq .c3), (4, .out)]

theorem Space.mem_table_iff {n : Nat} {sp : Space} : (n, sp) ∈ Space.table ↔ Space.ofId n = some sp := by
  constructor
  · intro h
    simp only [Space.table, List.mem_cons, Prod.mk.injEq, List.not_mem_nil, or_false] at h
    obtain ⟨rfl, rfl⟩ | ⟨rfl, rfl⟩ | ⟨rfl, rfl⟩ | ⟨rfl, rfl⟩ | ⟨rfl, rfl⟩ := h <;> rfl
  · intro h
    unfold Space.ofId at h
    split_ifs at h <;> cases h <;> simp [Space.table, *]

theorem Space.ofId_eq_none_iff {n : Nat} : Space.ofId n = none ↔ 4 < n := by
  unfold Space.ofId
  split_ifs <;> simp <;> omega

/-! ### Memory accesses -/

@[simp] theorem bitAt_setReply (s : State) (r : Reply) (sp : Space) (a : Nat) :
    (s.setReply r).bitAt sp a = s.bitAt sp a := bitAt_congr (by simp) (by simp) a

@[simp] theorem bitAt_setPending (s : State) (ops : List HostOp) (sp : Space) (a : Nat) :
    (s.setPending ops).bitAt sp a = s.bitAt sp a := bitAt_congr (by simp) (by simp) a

theorem memRead_of_lt (s : State) {n a : Nat} {sp : Space} (hn : Space.ofId n = some sp) (ha : a < s.params.lmax) :
    s.memRead n a = s.setReply (.bit (s.bitAt sp a)) := by
  simp [State.memRead, hn, ha]

theorem memWrite_of_lt (s : State) {n a : Nat} {sp : Space} (hn : Space.ofId n = some sp) (ha : a < s.params.lmax)
    (b : Bool) : s.memWrite n a b = (s.setBit sp a b).setReply .done := by
  simp [State.memWrite, hn, ha]

/-- No memory and no element stands at a bad space id or at an address of at least LMAX (R46, R47). -/
theorem not_mapped_of_outOfRange {s : State} {n a : Nat} (h : 4 < n ∨ s.params.lmax ≤ a) :
    ¬ ∃ sp, Space.ofId n = some sp ∧ a < s.params.lmax := by
  rintro ⟨sp, hsp, ha⟩
  obtain hn | hle := h
  · rw [Space.ofId_eq_none_iff.mpr hn] at hsp
    cases hsp
  · omega

theorem memRead_of_outOfRange (s : State) {n a : Nat} (h : 4 < n ∨ s.params.lmax ≤ a) :
    s.memRead n a = s.setReply .busError := by
  unfold State.memRead
  split
  · next sp hsp => exact if_neg fun ha => not_mapped_of_outOfRange h ⟨sp, hsp, ha⟩
  · rfl

theorem memWrite_of_outOfRange (s : State) {n a : Nat} (h : 4 < n ∨ s.params.lmax ≤ a) (b : Bool) :
    s.memWrite n a b = s.setReply .busError := by
  obtain e | ⟨sp, hsp, ha, -⟩ := memWrite_cases s n a b
  · exact e
  · exact absurd ⟨sp, hsp, ha⟩ (not_mapped_of_outOfRange h)

/-- Writing one bit changes the cells of the memories only. -/
theorem setBit_eq (s : State) (sp : Space) (a : Nat) (b : Bool) :
    s.setBit sp a b = { s with
      tgt := (s.setBit sp a b).tgt, seq1 := (s.setBit sp a b).seq1, seq2 := (s.setBit sp a b).seq2
      seq3 := (s.setBit sp a b).seq3, out := (s.setBit sp a b).out } := by
  rcases sp with _ | (_ | _ | _) | _ <;> rfl

theorem step_memRead {s : State} {n a : Nat} {rest : List HostOp} (hp : s.phase = .idle)
    (h : s.pending = .memRead n a :: rest) : step s = .next ((s.setPending rest).memRead n a) := by
  simp [step, State.serveNext, h, State.serve, State.whenIdle, hp]

theorem step_memWrite {s : State} {n a : Nat} {b : Bool} {rest : List HostOp} (hp : s.phase = .idle)
    (h : s.pending = .memWrite n a b :: rest) : step s = .next ((s.setPending rest).memWrite n a b) := by
  simp [step, State.serveNext, h, State.serve, State.whenIdle, hp]

/-- Settles O50: an access in range reads the element, any other answers BusError. -/
theorem memoryReadAnswersTheBit : Obligations.MemoryReadAnswersTheBit := by
  intro s n a rest hp h
  rw [step_memRead hp h]
  refine ⟨fun sp hsp ha => ?_, fun hout => ?_⟩
  · rw [memRead_of_lt (s.setPending rest) (Space.mem_table_iff.mp hsp) ha, bitAt_setPending]
    rfl
  · rw [memRead_of_outOfRange (s.setPending rest) hout]
    rfl

/-- Settles O51: an access in range writes its element and no other, any other answers BusError. -/
theorem memoryWriteStoresOneBit : Obligations.MemoryWriteStoresOneBit := by
  intro s n a b rest hp h
  rw [step_memWrite hp h]
  refine ⟨fun sp hsp ha => ?_, fun hout => ?_⟩
  · rw [memWrite_of_lt (s.setPending rest) (Space.mem_table_iff.mp hsp) ha]
    refine ⟨_, rfl, fun sp' c => ?_, ?_⟩
    · rw [bitAt_setReply, bitAt_setBit, bitAt_setPending]
    · rw [setBit_eq]
      rfl
  · rw [memWrite_of_outOfRange (s.setPending rest) hout]
    rfl

/-! ### Commands -/

/-- A pending write to CMD runs its word, on the state without that operation and with the answer `done` (R46, R49). -/
theorem step_commandWrite {s : State} {w : Word} {rest : List HostOp} (hp : s.phase = .idle)
    (h : s.pending = .regWrite 0 w :: rest) : step s = runCommand w ((s.setPending rest).setReply .done) :=
  step_regWrite hp h

theorem runCommand_of_decode {w : Word} {i : Instr} (h : decode w = .ok i) (s : State) :
    runCommand w s = exec i s := by
  rw [runCommand, h]

/-- A 32-bit word of the opcode table is the command word itself (log 16). -/
theorem tableWord_toNat (w : Word) : tableWord 32 w.toNat = w := by
  rw [tableWord, Nat.mod_eq_of_lt w.isLt, BitVec.ofNat_toNat, BitVec.setWidth_eq]

theorem step_withFetchWord (s : State) (w : Word) :
    step (s.withFetchWord 32 w.toNat) = runCommand w ((s.setPhase .idle).setReply .done) := by
  have hpending : (s.withFetchWord 32 w.toNat).pending = .regWrite 0 w :: s.pending := by
    simp [State.withFetchWord, tableWord_toNat]
  exact step_commandWrite rfl hpending

/-- Settles O4: both ways a legal word comes to run. -/
theorem stepRunsTheDecodedCommand : Obligations.StepRunsTheDecodedCommand :=
  ⟨fun _ _ _ _ hp h hw => (step_commandWrite hp h).trans (runCommand_of_decode hw _),
    fun s w _ hw => (step_withFetchWord s w).trans (runCommand_of_decode hw _)⟩

/-- A command word, legal or not, ends with the sequencer idle and leaves the host's side alone. -/
theorem runCommand_endsIdle (w : Word) (s : State) :
    ∃ t, runCommand w s = .next t ∧ t.phase = .idle ∧ SameHostSide s t := by
  unfold runCommand
  split
  · next i _ =>
    obtain ⟨t, e, h⟩ := exec_endsWithin i s
    exact ⟨t, e, h.idle, h.host⟩
  · exact ⟨_, rfl, by simp, by simp [SameHostSide]⟩

/-- Settles O52: the answer `done` and the rest of the queue are set before the word runs, and no command
touches them. -/
theorem commandWriteNeverAnswersBusError : Obligations.CommandWriteNeverAnswersBusError := by
  intro s w rest hp h
  obtain ⟨t, e, hidle, -, -, hpending, hreply⟩ := runCommand_endsIdle w ((s.setPending rest).setReply .done)
  exact ⟨t, (step_commandWrite hp h).trans e, hreply, hpending, hidle⟩

end Sys2Proof.Machine
end

section
/-! SUPPORT. The command words (30_encoding.md R60 to R64): their fields, the decoder and the encoder as inverses of
each other, the ten legal words, and what the engine does with any other word. -/

namespace Sys2Proof.Machine

/-! ### The fields of a command word -/

@[simp] theorem opField_commandWord (ch : BitVec 2) (op : BitVec 4) : opField (commandWord ch op) = op :=
  BitVec.extractLsb'_append_eq_right

@[simp] theorem chField_commandWord (ch : BitVec 2) (op : BitVec 4) : chField (commandWord ch op) = ch :=
  (BitVec.extractLsb'_append_eq_of_le (by decide)).trans BitVec.extractLsb'_append_eq_right

@[simp] theorem upperField_commandWord (ch : BitVec 2) (op : BitVec 4) : upperField (commandWord ch op) = 0#26 :=
  (BitVec.extractLsb'_append_eq_of_le (by decide)).trans BitVec.extractLsb'_append_eq_left

/-- The three fields of R60 cover the word: with ZERO clear, CH and OP determine it. -/
theorem commandWord_chField_opField {w : Word} (h : upperField w = 0#26) :
    commandWord (chField w) (opField w) = w := by
  calc commandWord (chField w) (opField w)
      = upperField w ++ chField w ++ opField w := by rw [h]; rfl
    _ = w.extractLsb' 4 28 ++ opField w :=
        congrArg (· ++ opField w) (BitVec.extractLsb'_append_extractLsb'_eq_extractLsb' rfl)
    _ = w.extractLsb' 0 32 := BitVec.extractLsb'_append_extractLsb'_eq_extractLsb' rfl
    _ = w := BitVec.extractLsb'_eq_self

/-- The word with given CH and OP fields, and ZERO clear (R60). -/
theorem commandWord_eq_iff {w : Word} {ch : BitVec 2} {op : BitVec 4} :
    commandWord ch op = w ↔ upperField w = 0#26 ∧ chField w = ch ∧ opField w = op := by
  constructor
  · rintro rfl
    simp
  · rintro ⟨hupper, rfl, rfl⟩
    exact commandWord_chField_opField hupper

/-! ### Decoding -/

theorem decodeFixed_eq_ok_iff {ch : BitVec 2} {i j : Instr} : decodeFixed ch i = .ok j ↔ ch = 0#2 ∧ i = j := by
  unfold decodeFixed
  split <;> simp [*]

theorem decodeChannel_eq_ok_iff {ch : BitVec 2} {f : BitVec 2 → Instr} {j : Instr} :
    decodeChannel ch f = .ok j ↔ ChannelField.Legal ch ∧ f ch = j := by
  unfold decodeChannel
  split <;> simp [*]

theorem wellFormed_gen_iff {ch : BitVec 2} : (Instr.gen ch).WellFormed ↔ ChannelField.Legal ch := decide_eq_true_iff

theorem wellFormed_corr_iff {ch : BitVec 2} : (Instr.corr ch).WellFormed ↔ ChannelField.Legal ch := decide_eq_true_iff

/-- The word of a well-formed command passes all three checks of the decoder and is looked up in its own row. -/
theorem decode_encode {i : Instr} (h : i.WellFormed) : decode (encode i) = .ok i := by
  cases i with
  | gen ch => simp [decode, encode, decodeChannel, wellFormed_gen_iff.mp h]
  | corr ch => simp [decode, encode, decodeChannel, wellFormed_corr_iff.mp h]
  | comb | corr2 | fsel | recover => simp [decode, encode, decodeFixed]

/-- The decoder's rows for `COMB`, `CORR2`, `FSEL` and `RECOVER`: CH must be 0. -/
theorem encode_of_decodeFixed {w : Word} {op : BitVec 4} {i j : Instr} (hupper : upperField w = 0#26)
    (hop : opField w = op) (hi : i.WellFormed) (hrow : encode i = commandWord 0#2 op)
    (h : decodeFixed (chField w) i = .ok j) : j.WellFormed ∧ encode j = w := by
  obtain ⟨hch, rfl⟩ := decodeFixed_eq_ok_iff.mp h
  exact ⟨hi, hrow.trans (commandWord_eq_iff.mpr ⟨hupper, hch, hop⟩)⟩

/-- The decoder's rows for `GEN` and `CORR`: CH must name a channel. -/
theorem encode_of_decodeChannel {w : Word} {op : BitVec 4} {f : BitVec 2 → Instr} {j : Instr}
    (hupper : upperField w = 0#26) (hop : opField w = op)
    (hf : ∀ ch, ChannelField.Legal ch → (f ch).WellFormed) (hrow : ∀ ch, encode (f ch) = commandWord ch op)
    (h : decodeChannel (chField w) f = .ok j) : j.WellFormed ∧ encode j = w := by
  obtain ⟨hch, rfl⟩ := decodeChannel_eq_ok_iff.mp h
  exact ⟨hf _ hch, (hrow _).trans (commandWord_eq_iff.mpr ⟨hupper, rfl, hop⟩)⟩

theorem upperField_of_decode {w : Word} {i : Instr} (h : decode w = .ok i) : upperField w = 0#26 := by
  by_contra hne
  simp [decode, hne] at h

/-- What the decoder accepts is the word of a well-formed command: one case per row of the table of R62. -/
theorem encode_of_decode {w : Word} {i : Instr} (h : decode w = .ok i) : i.WellFormed ∧ encode i = w := by
  have hupper := upperField_of_decode h
  rw [decode, if_neg (not_not.mpr hupper)] at h
  split_ifs at h with hgen hcomb hcorr hcorr2 hfsel hrecover
  · exact encode_of_decodeChannel hupper hgen (fun _ => wellFormed_gen_iff.mpr) (fun _ => rfl) h
  · exact encode_of_decodeFixed hupper hcomb rfl rfl h
  · exact encode_of_decodeChannel hupper hcorr (fun _ => wellFormed_corr_iff.mpr) (fun _ => rfl) h
  · exact encode_of_decodeFixed hupper hcorr2 rfl rfl h
  · exact encode_of_decodeFixed hupper hfsel rfl rfl h
  · exact encode_of_decodeFixed hupper hrecover rfl rfl h

theorem decode_eq_ok_iff (w : Word) (i : Instr) : decode w = .ok i ↔ i.WellFormed ∧ encode i = w := by
  refine ⟨encode_of_decode, ?_⟩
  rintro ⟨hi, rfl⟩
  exact decode_encode hi

/-- Settles O2: the decoder and the encoder are inverses of each other on the well-formed commands. -/
theorem decodeIffWellFormedAndEncoded : Obligations.DecodeIffWellFormedAndEncoded := decode_eq_ok_iff

/-! ### The ten legal words -/

/-- The commands of the ten rows of R62, in the order of `legalWords`. -/
def legalCommands : List Instr :=
  [.gen 1#2, .gen 2#2, .gen 3#2, .comb, .corr 1#2, .corr 2#2, .corr 3#2, .corr2, .fsel, .recover]

theorem map_encode_legalCommands : legalCommands.map encode = legalWords := by decide

/-- R63's condition on CH leaves three rows each for `GEN` and `CORR`, and one for every other command. -/
theorem mem_legalCommands_iff (i : Instr) : i ∈ legalCommands ↔ i.WellFormed := by
  cases i with
  | gen ch => revert ch; decide
  | corr ch => revert ch; decide
  | comb | corr2 | fsel | recover => decide

theorem mem_legalWords_iff {w : Word} : w ∈ legalWords ↔ ∃ i : Instr, i.WellFormed ∧ encode i = w := by
  simp only [← map_encode_legalCommands, List.mem_map, mem_legalCommands_iff]

/-- Settles O3: by O2 a word that decodes is the word of a well-formed command, and there are ten of those. -/
theorem onlyTenWordsAreLegal : Obligations.OnlyTenWordsAreLegal := fun w =>
  (exists_congr (decode_eq_ok_iff w)).trans mem_legalWords_iff.symm

/-- Settles O1: each of the ten words is the encoding of its command. -/
theorem legalWordsDecodeToTheirCommands : Obligations.LegalWordsDecodeToTheirCommands :=
  have hrow (i : Instr) (hi : i ∈ legalCommands) : decode (encode i) = .ok i :=
    decode_encode ((mem_legalCommands_iff i).mp hi)
  ⟨hrow (.gen 1#2) (by decide), hrow (.gen 2#2) (by decide), hrow (.gen 3#2) (by decide), hrow .comb (by decide),
    hrow (.corr 1#2) (by decide), hrow (.corr 2#2) (by decide), hrow (.corr 3#2) (by decide), hrow .corr2 (by decide),
    hrow .fsel (by decide), hrow .recover (by decide)⟩

/-! ### Illegal command words -/

theorem runCommand_of_not_mem_legalWords {w : Word} (h : w ∉ legalWords) (s : State) :
    runCommand w s = .next s.raiseIllegal := by
  unfold runCommand
  split
  · next i hi => exact absurd ((onlyTenWordsAreLegal w).mp ⟨i, hi⟩) h
  · rfl

/-- IllegalCommand on an idle engine writes CSTAT and nothing else (R184). -/
theorem raiseIllegal_of_idle {s : State} (h : s.phase = .idle) :
    s.raiseIllegal = { s with cstat := statusWord 5 0 } := by
  cases s
  cases h
  rfl

/-- Settles O5: outside the ten words the decoder answers an error, and the command write ends as IllegalCommand. -/
theorem illegalWordWritesOnlyCstat : Obligations.IllegalWordWritesOnlyCstat := by
  intro s rest w hw hp h
  have hidle : ((s.setPending rest).setReply .done).phase = .idle := by simpa using hp
  rw [step_commandWrite hp h, runCommand_of_not_mem_legalWords hw, raiseIllegal_of_idle hidle]
  rfl

end Sys2Proof.Machine
end

section
/-! SUPPORT. The LFSR step on the states of n bits (40_lfsr_generate.md R80, R85): its bits, and when it is a
bijection. -/

namespace Sys2Proof.Machine

/-! ### Parity -/

/-- An XOR-sum is the sum of its bits modulo 2. -/
theorem toNat_foldl_xor (g : Nat → Bool) (len : Nat) :
    ((List.range len).foldl (fun p i => p ^^ g i) false).toNat = (∑ i ∈ Finset.range len, (g i).toNat) % 2 := by
  induction len with
  | zero => rfl
  | succ len ih =>
    have hxor (a b : Bool) : (a ^^ b).toNat = (a.toNat + b.toNat) % 2 := by revert a b; decide
    rw [List.range_succ, List.foldl_append, List.foldl_cons, List.foldl_nil, hxor, ih, Finset.sum_range_succ,
      Nat.mod_add_mod]

theorem foldl_xor_xor (g h : Nat → Bool) (len : Nat) :
    (List.range len).foldl (fun p i => p ^^ (g i ^^ h i)) false =
      ((List.range len).foldl (fun p i => p ^^ g i) false ^^ (List.range len).foldl (fun p i => p ^^ h i) false) := by
  induction len with
  | zero => rfl
  | succ len ih =>
    simp only [List.range_succ, List.foldl_append, List.foldl_cons, List.foldl_nil, ih, Bool.xor_assoc,
      Bool.xor_left_comm]

/-- Parity is linear. -/
theorem parity_xor (v w : Word) : parity (v ^^^ w) = (parity v ^^ parity w) := by
  simpa only [parity, BitVec.getLsbD_xor] using foldl_xor_xor v.getLsbD w.getLsbD 32

theorem parity_ofBit (b : Bool) : parity (Word.ofBit b) = b := by
  cases b <;> decide

@[simp] theorem parity_zero : parity 0#32 = false := parity_ofBit false

/-- Bit 0 comes out of a parity: `w` is `v` with bit 0 cleared. -/
theorem parity_eq_bit_zero_xor {v w : Word} (hzero : w.getLsbD 0 = false)
    (hrest : ∀ i, 0 < i → v.getLsbD i = w.getLsbD i) : parity v = (v.getLsbD 0 ^^ parity w) := by
  have hsplit : v = Word.ofBit (v.getLsbD 0) ^^^ w := by
    refine BitVec.eq_of_getLsbD_eq fun i _ => ?_
    rw [BitVec.getLsbD_xor, getLsbD_ofBit]
    rcases Nat.eq_zero_or_pos i with rfl | hi
    · rw [hzero, Bool.xor_false, decide_eq_true rfl, Bool.true_and]
    · rw [hrest i hi, decide_eq_false hi.ne', Bool.false_and, Bool.false_xor]
  calc parity v = parity (Word.ofBit (v.getLsbD 0) ^^^ w) := congrArg parity hsplit
    _ = (v.getLsbD 0 ^^ parity w) := by rw [parity_xor, parity_ofBit]

/-! ### The states of n bits -/

/-- The states a register of degree n can hold. -/
def lfsrStates (n : Nat) : Set Word := {f | f.toNat < 2 ^ n}

/-- A state of n bits is a word with no bit at n or above. -/
theorem mem_lfsrStates_iff {n : Nat} {f : Word} : f ∈ lfsrStates n ↔ ∀ i, n ≤ i → f.getLsbD i = false :=
  ⟨fun h _ hi => Nat.testBit_lt_two_pow (lt_of_lt_of_le h (Nat.pow_le_pow_right (by decide) hi)),
    fun h => Nat.lt_pow_two_of_testBit _ h⟩

theorem zero_mem_lfsrStates (n : Nat) : 0#32 ∈ lfsrStates n := mem_lfsrStates_iff.mpr fun _ _ => BitVec.getLsbD_zero

/-- The parity of a word of n bits is the sum of those bits modulo 2. -/
theorem toNat_parity {n : Nat} (hn : n ≤ 32) {v : Word} (hv : v ∈ lfsrStates n) :
    (parity v).toNat = (∑ i ∈ Finset.range n, (v.getLsbD i).toNat) % 2 := by
  have hhigh : ∀ i ∈ Finset.range 32, i ∉ Finset.range n → (v.getLsbD i).toNat = 0 := fun i _ hi => by
    rw [mem_lfsrStates_iff.mp hv i (by simpa using hi)]
    rfl
  rw [Finset.sum_subset (Finset.range_mono hn) hhigh]
  exact toNat_foldl_xor v.getLsbD 32

theorem and_mem_lfsrStates {n : Nat} {f : Word} (hf : f ∈ lfsrStates n) (m : Word) : f &&& m ∈ lfsrStates n :=
  mem_lfsrStates_iff.mpr fun i hi => by rw [BitVec.getLsbD_and, mem_lfsrStates_iff.mp hf i hi, Bool.false_and]

/-! ### The bits of a step -/

/-- Below bit n - 1 a step is a shift. -/
theorem getLsbD_lfsrStep_of_lt {n : Nat} (hn : 1 ≤ n) (hn' : n ≤ 32) (m f : Word) {i : Nat} (hi : i < n - 1) :
    (lfsrStep n m f).getLsbD i = f.getLsbD (i + 1) := by
  simp [getLsbD_lfsrStep hn hn', hi.ne]

/-- Bit n - 1 of a step is the parity of the tapped bits. -/
theorem getLsbD_lfsrStep_top {n : Nat} (hn : 1 ≤ n) (hn' : n ≤ 32) (m : Word) {f : Word} (hf : f ∈ lfsrStates n) :
    (lfsrStep n m f).getLsbD (n - 1) = parity (f &&& m) := by
  have hnone : f.getLsbD (n - 1 + 1) = false := mem_lfsrStates_iff.mp hf _ (by omega)
  simp [getLsbD_lfsrStep hn hn', hnone]

/-- A step sets no bit at n or above. -/
theorem lfsrStep_mapsTo {n : Nat} (hn : 1 ≤ n) (hn' : n ≤ 32) (m : Word) :
    Set.MapsTo (lfsrStep n m) (lfsrStates n) (lfsrStates n) := fun f hf => by
  refine mem_lfsrStates_iff.mpr fun i hi => ?_
  have hne : i ≠ n - 1 := by omega
  simp [getLsbD_lfsrStep hn hn', mem_lfsrStates_iff.mp hf (i + 1) (by omega), hne]

@[simp] theorem lfsrStep_zero (n : Nat) (m : Word) : lfsrStep n m 0#32 = 0#32 := by
  simp [lfsrStep, Word.ofBit]

/-- Without tap 0 the state 1 is lost: nothing feeds its bit back. -/
theorem lfsrStep_one {n : Nat} {m : Word} (hm : m.getLsbD 0 = false) : lfsrStep n m 1#32 = 0#32 := by
  have hmasked : 1#32 &&& m = 0#32 := by
    refine BitVec.eq_of_getLsbD_eq fun i _ => ?_
    rw [BitVec.getLsbD_and, BitVec.getLsbD_one, BitVec.getLsbD_zero]
    rcases Nat.eq_zero_or_pos i with rfl | hi
    · rw [hm, Bool.and_false]
    · rw [decide_eq_false hi.ne', Bool.and_false, Bool.false_and]
  simp [lfsrStep, Word.ofBit, hmasked]

/-- Settles O7: the bits of a step below, at and above n - 1; a parity is a sum modulo 2. -/
theorem lfsrStepShiftsAndFeedsParity : Obligations.LfsrStepShiftsAndFeedsParity := by
  intro n m f hn hn' _ hf
  refine ⟨fun i hi => getLsbD_lfsrStep_of_lt (by omega) hn' m f hi, ?_,
    fun i hi => mem_lfsrStates_iff.mp (lfsrStep_mapsTo (by omega) hn' m hf) i hi⟩
  have hsum : (parity (f &&& m)).toNat =
      (∑ i ∈ Finset.range 32, if (f &&& m).getLsbD i = true then 1 else 0) % 2 := by
    simpa only [Bool.toNat, Bool.cond_eq_ite] using toNat_parity le_rfl (f &&& m).isLt
  rw [getLsbD_lfsrStep_top (by omega) hn' m hf, ← hsum, Bool.toNat_eq_one]

/-! ### Undoing a step -/

/-- The old bits above bit 0 are the new state shifted left. -/
theorem getLsbD_shiftLeft_lfsrStep {n : Nat} (hn : 1 ≤ n) (hn' : n ≤ 32) (m f : Word) {i : Nat} (hpos : 0 < i)
    (hi : i < n) : ((lfsrStep n m f) <<< 1).getLsbD i = f.getLsbD i := by
  rw [BitVec.getLsbD_shiftLeft, getLsbD_lfsrStep_of_lt hn hn' m f (by omega), Nat.sub_add_cancel hpos]
  simp [show i < 32 by omega, hpos.ne']

/-- With tap 0 the old bit 0 can be told from the new state: it is the bit fed back, less the other taps (R85). -/
theorem getLsbD_zero_of_lfsrStep {n : Nat} (hn : 1 ≤ n) (hn' : n ≤ 32) {m f : Word} (hm : m.getLsbD 0 = true)
    (hf : f ∈ lfsrStates n) :
    f.getLsbD 0 = ((lfsrStep n m f).getLsbD (n - 1) ^^
      parity (((lfsrStep n m f) <<< 1) &&& m &&& BitVec.ofNat 32 (2 ^ n - 1))) := by
  have hothers : ∀ i, 0 < i → (f &&& m).getLsbD i =
      (((lfsrStep n m f) <<< 1) &&& m &&& BitVec.ofNat 32 (2 ^ n - 1)).getLsbD i := by
    intro i hpos
    rw [BitVec.getLsbD_and, BitVec.getLsbD_and, BitVec.getLsbD_and, BitVec.getLsbD_ofNat,
      Nat.testBit_two_pow_sub_one]
    by_cases hi : i < n
    · rw [getLsbD_shiftLeft_lfsrStep hn hn' m f hpos hi, decide_eq_true hi, decide_eq_true (hi.trans_le hn'),
        Bool.and_true, Bool.and_true]
    · rw [mem_lfsrStates_iff.mp hf i (by omega), decide_eq_false hi, Bool.false_and, Bool.and_false, Bool.and_false]
  rw [getLsbD_lfsrStep_top hn hn' m hf, parity_eq_bit_zero_xor (by simp) hothers, BitVec.getLsbD_and, hm]
  simp

/-- With tap 0 every bit of the old state can be told from the new one. -/
theorem lfsrStep_injOn {n : Nat} (hn : 1 ≤ n) (hn' : n ≤ 32) {m : Word} (hm : m.getLsbD 0 = true) :
    Set.InjOn (lfsrStep n m) (lfsrStates n) := by
  intro f hf g hg hstep
  refine BitVec.eq_of_getLsbD_eq fun i _ => ?_
  rcases Nat.eq_zero_or_pos i with rfl | hpos
  · rw [getLsbD_zero_of_lfsrStep hn hn' hm hf, hstep, ← getLsbD_zero_of_lfsrStep hn hn' hm hg]
  · rcases Nat.lt_or_ge i n with hi | hi
    · rw [← getLsbD_shiftLeft_lfsrStep hn hn' m f hpos hi, hstep, getLsbD_shiftLeft_lfsrStep hn hn' m g hpos hi]
    · rw [mem_lfsrStates_iff.mp hf i hi, mem_lfsrStates_iff.mp hg i hi]

/-- With tap 0 the step is a bijection on the states of n bits: it is injective, and they are finitely many. -/
theorem lfsrStep_bijOn {n : Nat} (hn : 1 ≤ n) (hn' : n ≤ 32) {m : Word} (hm : m.getLsbD 0 = true) :
    Set.BijOn (lfsrStep n m) (lfsrStates n) (lfsrStates n) :=
  ((Set.toFinite _).injOn_iff_bijOn_of_mapsTo (lfsrStep_mapsTo hn hn' m)).mp (lfsrStep_injOn hn hn' hm)

/-- With tap 0 no nonzero state steps to 0: 0 does. -/
theorem lfsrStep_ne_zero {n : Nat} (hn : 1 ≤ n) (hn' : n ≤ 32) {m f : Word} (hm : m.getLsbD 0 = true)
    (hf : f ∈ lfsrStates n) (hne : f ≠ 0#32) : lfsrStep n m f ≠ 0#32 := fun hzero =>
  hne (lfsrStep_injOn hn hn' hm hf (zero_mem_lfsrStates n) (hzero.trans (lfsrStep_zero n m).symm))

/-- Settles O8. With tap 0 a step can be undone; without it the states 0 and 1 both step to 0. -/
theorem lfsrStepWidthZeroAndBijection : Obligations.LfsrStepWidthZeroAndBijection := by
  refine ⟨fun n m hn hn' _ _ => ?_, lfsrStep_one (by decide)⟩
  have hn1 : 1 ≤ n := by omega
  refine ⟨fun f hf => lfsrStep_mapsTo hn1 hn' m hf, lfsrStep_zero n m, fun htap => ⟨fun g hg => ?_, ?_, ?_, ?_⟩,
    fun htap => ⟨⟨1#32, 0#32, by decide, ?_, zero_mem_lfsrStates n, ?_⟩, lfsrStep_one htap⟩⟩
  · obtain ⟨f, hf, hstep⟩ := (lfsrStep_bijOn hn1 hn' htap).surjOn hg
    exact ⟨f, ⟨hf, hstep⟩, fun f' ⟨hf', hstep'⟩ => lfsrStep_injOn hn1 hn' htap hf' hf (hstep'.trans hstep.symm)⟩
  · exact fun f hf => getLsbD_zero_of_lfsrStep hn1 hn' htap hf
  · exact fun f _ i hpos hi => (getLsbD_shiftLeft_lfsrStep hn1 hn' m f hpos hi).symm
  · exact fun f hf hne => lfsrStep_ne_zero hn1 hn' htap hf hne
  · exact Nat.one_lt_two_pow (by omega)
  · rw [lfsrStep_one htap, lfsrStep_zero]

end Sys2Proof.Machine
end

section
/-! SUPPORT. The output sequence of a register (40_lfsr_generate.md R82, R86 to R88, R91). -/

namespace Sys2Proof.Machine

/-! ### Generation -/

theorem seqBit_succ (n : Nat) (m f : Word) (t : Nat) : seqBit n m f (t + 1) = seqBit n m (lfsrStep n m f) t := rfl

/-- The sequence from the state after t steps is the sequence from there on. -/
theorem seqBit_iterate (n : Nat) (m f : Word) (t i : Nat) :
    seqBit n m ((lfsrStep n m)^[t] f) i = seqBit n m f (t + i) := by
  rw [seqBit, seqBit, Nat.add_comm t i, Function.iterate_add_apply]

/-- Element t of a generation is the output bit t. -/
theorem getElem?_lfsrGen (n : Nat) (m : Word) : ∀ (len : Nat) (f : Word) (t : Nat), t < len →
    (lfsrGen n m f len).1[t]? = some (seqBit n m f t)
  | _ + 1, _, 0, _ => rfl
  | len + 1, f, t + 1, ht => by
    rw [lfsrGen_succ, List.getElem?_cons_succ, seqBit_succ]
    exact getElem?_lfsrGen n m len (lfsrStep n m f) t (by omega)

/-- The post-run state of a generation is its seed stepped once per bit. -/
theorem lfsrGen_snd (n : Nat) (m : Word) : ∀ (len : Nat) (f : Word), (lfsrGen n m f len).2 = (lfsrStep n m)^[len] f
  | 0, _ => rfl
  | len + 1, f => lfsrGen_snd n m len (lfsrStep n m f)

/-- Settles O9, each part by induction on the length. -/
theorem generationIteratesTheStep : Obligations.GenerationIteratesTheStep := fun n m f len =>
  ⟨length_lfsrGen n m len f, getElem?_lfsrGen n m len f, lfsrGen_snd n m len f⟩

/-! ### The window and the recurrence -/

section
variable {n : Nat} (hn : 1 ≤ n) (hn' : n ≤ 32) (m : Word)
include hn hn'

theorem iterate_mem_lfsrStates {f : Word} (hf : f ∈ lfsrStates n) (t : Nat) :
    (lfsrStep n m)^[t] f ∈ lfsrStates n := (lfsrStep_mapsTo hn hn' m).iterate t hf

/-- With tap 0 a run from a nonzero state never reaches 0. -/
theorem iterate_ne_zero {m f : Word} (hm : m.getLsbD 0 = true) (hf : f ∈ lfsrStates n) (hne : f ≠ 0#32) :
    ∀ t, (lfsrStep n m)^[t] f ≠ 0#32
  | 0 => hne
  | t + 1 => by
    rw [Function.iterate_succ_apply']
    exact lfsrStep_ne_zero hn hn' hm (iterate_mem_lfsrStates hn hn' m hf t) (iterate_ne_zero hm hf hne t)

/-- Bit i of a state is the output bit i steps later: each step before shifts it down by one. -/
theorem getLsbD_eq_seqBit : ∀ {i : Nat}, i < n → ∀ f : Word, f.getLsbD i = seqBit n m f i
  | 0, _, _ => rfl
  | i + 1, hi, f => by
    rw [← getLsbD_lfsrStep_of_lt hn hn' m f (by omega : i < n - 1), seqBit_succ]
    exact getLsbD_eq_seqBit (by omega) (lfsrStep n m f)

/-- "the window" of R87. -/
theorem getLsbD_iterate_eq_seqBit {i : Nat} (hi : i < n) (f : Word) (t : Nat) :
    ((lfsrStep n m)^[t] f).getLsbD i = seqBit n m f (t + i) := by
  rw [getLsbD_eq_seqBit hn hn' m hi, seqBit_iterate]

/-- A state of n bits is determined by its next n output bits. -/
theorem eq_of_seqBit_eq {f g : Word} (hf : f ∈ lfsrStates n) (hg : g ∈ lfsrStates n)
    (h : ∀ i, seqBit n m f i = seqBit n m g i) : f = g := by
  refine BitVec.eq_of_getLsbD_eq fun i _ => ?_
  rcases Nat.lt_or_ge i n with hi | hi
  · rw [getLsbD_eq_seqBit hn hn' m hi, h, ← getLsbD_eq_seqBit hn hn' m hi]
  · rw [mem_lfsrStates_iff.mp hf i hi, mem_lfsrStates_iff.mp hg i hi]

/-- The output bit n is the parity of the tapped bits of the state. -/
theorem seqBit_degree {f : Word} (hf : f ∈ lfsrStates n) : seqBit n m f n = parity (f &&& m) := by
  obtain ⟨k, rfl⟩ : ∃ k, n = k + 1 := ⟨n - 1, by omega⟩
  rw [seqBit_succ, ← getLsbD_eq_seqBit hn hn' m (Nat.lt_succ_self k)]
  exact getLsbD_lfsrStep_top hn hn' m hf

end

/-- A number is its bits with their weights. -/
theorem toNat_eq_sum_of_mem_lfsrStates {n : Nat} {f : Word} (hf : f ∈ lfsrStates n) :
    f.toNat = ∑ i ∈ Finset.range n, (f.getLsbD i).toNat * 2 ^ i := by
  have hmod : ∀ k, f.toNat % 2 ^ k = ∑ i ∈ Finset.range k, (f.getLsbD i).toNat * 2 ^ i := by
    intro k
    induction k with
    | zero => simp [Nat.mod_one]
    | succ k ih => rw [Nat.mod_pow_succ, ih, Finset.sum_range_succ, Nat.mul_comm, ← Nat.toNat_testBit]; rfl
  rw [← hmod n, Nat.mod_eq_of_lt hf]

/-- Settles O10: the window bit by bit, then the state as the sum of its bits. -/
theorem windowOfOutputIsTheState : Obligations.WindowOfOutputIsTheState := by
  intro n m f hn hn' _ hf t
  have hn1 : 1 ≤ n := by omega
  have hwindow : ∀ i, i < n → ((lfsrStep n m)^[t] f).getLsbD i = seqBit n m f (t + i) :=
    fun i hi => getLsbD_iterate_eq_seqBit hn1 hn' m hi f t
  refine ⟨hwindow, ?_⟩
  rw [toNat_eq_sum_of_mem_lfsrStates (iterate_mem_lfsrStates hn1 hn' m hf t)]
  exact Finset.sum_congr rfl fun i hi => by rw [hwindow i (Finset.mem_range.mp hi)]

/-- Settles O11: the output bit t + n is the parity of the tapped bits of the state after t steps, and by the window those
are the output bits t + i. -/
theorem outputSatisfiesTheRecurrence : Obligations.OutputSatisfiesTheRecurrence := by
  intro n m f hn hn' _ hf t
  have hn1 : 1 ≤ n := by omega
  have hmem : (lfsrStep n m)^[t] f ∈ lfsrStates n := iterate_mem_lfsrStates hn1 hn' m hf t
  rw [← seqBit_iterate, seqBit_degree hn1 hn' m hmem, toNat_parity hn' (and_mem_lfsrStates hmem m)]
  congr 1
  refine Finset.sum_congr rfl fun i hi => ?_
  rw [BitVec.getLsbD_and, getLsbD_iterate_eq_seqBit hn1 hn' m (Finset.mem_range.mp hi)]
  cases m.getLsbD i <;> simp

/-! ### The period -/

theorem runState_eq_iterate (n : Nat) (m : Word) : ∀ j, runState n m j = (lfsrStep n m)^[j] 1#32
  | 0 => rfl
  | j + 1 => by rw [runState, runState_eq_iterate n m j, Function.iterate_succ_apply']

/-- The run from 1 visits every nonzero state of n bits: what 42_correlation_search.md R124 says of a primitive
mask. -/
def Covers (n : Nat) (m : Word) : Prop :=
  ∀ f : Word, f ≠ 0#32 → f.toNat < 2 ^ n → ∃ j, j < 2 ^ n - 1 ∧ runState n m j = f

section
variable {n : Nat} (hn : 2 ≤ n) (hn' : n ≤ 32) {m : Word} (hcover : Covers n m)
include hn hcover

/-- A covering mask taps bit 0: without it the run from 1 is 1, 0, 0, ..., which misses the state 2. -/
theorem Covers.tap_zero : m.getLsbD 0 = true := by
  by_contra htap
  have hlost : lfsrStep n m 1#32 = 0#32 := lfsrStep_one (by simpa using htap)
  have htwo : (2#32).toNat < 2 ^ n := lt_of_lt_of_le (by decide : 2 < 2 ^ 2) (Nat.pow_le_pow_right (by decide) hn)
  obtain ⟨j, -, hj⟩ := hcover 2#32 (by decide) htwo
  rw [runState_eq_iterate] at hj
  cases j with
  | zero => simp at hj
  | succ j =>
    rw [Function.iterate_succ_apply, hlost, Function.iterate_fixed (lfsrStep_zero n m)] at hj
    exact absurd hj (by decide)

include hn'

/-- The run of a covering mask returns to 1 within 2^n - 1 steps: its state after that many is one it has already
visited, and steps can be undone. -/
theorem Covers.exists_return : ∃ p, 0 < p ∧ p ≤ 2 ^ n - 1 ∧ Function.IsPeriodicPt (lfsrStep n m) p 1#32 := by
  have hn1 : 1 ≤ n := by omega
  have htap := hcover.tap_zero hn
  have hone : 1#32 ∈ lfsrStates n := Nat.one_lt_two_pow (by omega)
  have hmem := iterate_mem_lfsrStates hn1 hn' m hone
  have hne := iterate_ne_zero hn1 hn' htap hone (by decide)
  obtain ⟨j, hj, hvisited⟩ := hcover _ (hne (2 ^ n - 1)) (hmem (2 ^ n - 1))
  refine ⟨2 ^ n - 1 - j, by omega, by omega, ?_⟩
  refine (lfsrStep_injOn hn1 hn' htap).iterate (lfsrStep_mapsTo hn1 hn' m) j (hmem _) hone ?_
  rw [← Function.iterate_add_apply, Nat.add_sub_cancel' hj.le, ← hvisited, runState_eq_iterate]

theorem Covers.one_mem_periodicPts : 1#32 ∈ Function.periodicPts (lfsrStep n m) := by
  obtain ⟨p, hpos, -, hp⟩ := hcover.exists_return hn hn'
  exact ⟨p, hpos, hp⟩

/-- One period of the run of a covering mask holds every nonzero state of n bits. -/
theorem Covers.exists_lt_minimalPeriod {f : Word} (hf : f ∈ lfsrStates n) (hne : f ≠ 0#32) :
    ∃ i, i < Function.minimalPeriod (lfsrStep n m) 1#32 ∧ (lfsrStep n m)^[i] 1#32 = f := by
  obtain ⟨j, -, hj⟩ := hcover f hne hf
  refine ⟨j % Function.minimalPeriod (lfsrStep n m) 1#32, Nat.mod_lt _ ?_, ?_⟩
  · exact Function.minimalPeriod_pos_of_mem_periodicPts (hcover.one_mem_periodicPts hn hn')
  · rw [Function.iterate_mod_minimalPeriod_eq, ← runState_eq_iterate, hj]

/-- The run of a covering mask has period 2^n - 1: no more by its return, no less since a period holds the 2^n - 1
nonzero states. -/
theorem Covers.minimalPeriod_one : Function.minimalPeriod (lfsrStep n m) 1#32 = 2 ^ n - 1 := by
  refine le_antisymm ?_ ?_
  · obtain ⟨p, hpos, hle, hp⟩ := hcover.exists_return hn hn'
    exact (hp.minimalPeriod_le hpos).trans hle
  · have hvisit : Finset.Ico 1 (2 ^ n) ⊆
        (Finset.range (Function.minimalPeriod (lfsrStep n m) 1#32)).image
          fun i => ((lfsrStep n m)^[i] 1#32).toNat := by
      intro x hx
      obtain ⟨hpos, hlt⟩ := Finset.mem_Ico.mp hx
      have hx32 : x < 2 ^ 32 := hlt.trans_le (Nat.pow_le_pow_right (by decide) hn')
      have htoNat : (BitVec.ofNat 32 x).toNat = x := Nat.mod_eq_of_lt hx32
      have hmem : BitVec.ofNat 32 x ∈ lfsrStates n := htoNat.trans_lt hlt
      have hne : BitVec.ofNat 32 x ≠ 0#32 := fun h =>
        Nat.pos_iff_ne_zero.mp hpos (htoNat.symm.trans (congrArg BitVec.toNat h))
      obtain ⟨i, hi, hstate⟩ := hcover.exists_lt_minimalPeriod hn hn' hmem hne
      exact Finset.mem_image.mpr ⟨i, Finset.mem_range.mpr hi, by rw [hstate, htoNat]⟩
    calc 2 ^ n - 1 = (Finset.Ico 1 (2 ^ n)).card := (Nat.card_Ico 1 (2 ^ n)).symm
      _ ≤ _ := Finset.card_le_card hvisit
      _ ≤ _ := Finset.card_image_le
      _ = Function.minimalPeriod (lfsrStep n m) 1#32 := Finset.card_range _

/-- Every nonzero state lies on the run from 1, so it has the run's period. -/
theorem Covers.minimalPeriod_eq {f : Word} (hf : f ∈ lfsrStates n) (hne : f ≠ 0#32) :
    Function.minimalPeriod (lfsrStep n m) f = 2 ^ n - 1 := by
  obtain ⟨j, -, rfl⟩ := hcover f hne hf
  rw [runState_eq_iterate, Function.minimalPeriod_apply_iterate (hcover.one_mem_periodicPts hn hn'),
    hcover.minimalPeriod_one hn hn']

end

/-- Settles O12: 2^n - 1 is the least period of every nonzero state, and a smaller period of its sequence would be one of
the state too, since the sequence determines the state. -/
theorem coveringMaskHasFullPeriod : Obligations.CoveringMaskHasFullPeriod := by
  intro n m hn hn' _ _ hcover f hne hf
  have hn1 : 1 ≤ n := by omega
  have hperiod := Covers.minimalPeriod_eq hn hn' hcover hf hne
  refine ⟨hperiod ▸ Function.iterate_minimalPeriod, fun i => ?_, fun p hpos hp => ?_⟩
  · rw [seqBit, seqBit, ← hperiod, Function.iterate_mod_minimalPeriod_eq]
  · by_contra! hrepeat
    have hreturn : Function.IsPeriodicPt (lfsrStep n m) p f :=
      eq_of_seqBit_eq hn1 hn' m (iterate_mem_lfsrStates hn1 hn' m hf p) hf fun i => by
        rw [seqBit_iterate, Nat.add_comm, hrepeat]
    have hle := hreturn.minimalPeriod_le hpos
    omega

/-! ### The example masks -/

/-- Settles O13: a check of finitely many states of twelve given registers, at most 127 states each. -/
theorem exampleMasksHaveTheirPeriods : Obligations.ExampleMasksHaveTheirPeriods := by
  unfold Obligations.ExampleMasksHaveTheirPeriods
  decide +kernel

end Sys2Proof.Machine
end

section
/-! SUPPORT. What GEN k does (40_lfsr_generate.md R83; 60_exceptions.md R182 to R186). -/

namespace Sys2Proof.Machine

/-! ### Its checks and its outcomes -/

/-- The checks of `GEN k` are those of R182, the seed apart. -/
theorem genParamsLegal_iff (s : State) (k : Channel) : s.GenParamsLegal k ↔ GenerateLegal s k := by
  have hmask : (s.chan k).mask ≠ 0#32 ↔ 0 < (s.chan k).mask.toNat := by
    rw [Nat.pos_iff_ne_zero, ne_eq, ne_eq, ← BitVec.toNat_inj]
    rfl
  unfold State.GenParamsLegal State.DegreeLegal State.MaskLegal State.GenLengthLegal State.FillWidthLegal State.degree
    GenerateLegal LfsrLegal
  rw [hmask]
  tauto

theorem exec_gen_field (s : State) (k : Channel) : exec (.gen k.field) s = .next (s.generate k) := by
  have harm : exec (.gen k.field) s = execGen k.field s := rfl
  rw [harm, execGen, ofField_field]

theorem generate_of_legal {s : State} {k : Channel} (h : GenerateLegal s k) (hf : (s.chan k).fill ≠ 0#32) :
    s.generate k = (s.generateInto k (s.chan k).fill s.glen.toNat).concludeOk := by
  rw [generate_eq, if_pos ((genParamsLegal_iff s k).mpr h), if_neg hf]

theorem generate_of_not_legal {s : State} {k : Channel} (h : ¬ GenerateLegal s k) :
    s.generate k = s.raise .invalidParameter k.field := by
  rw [generate_eq, if_neg (mt (genParamsLegal_iff s k).mp h)]

theorem generate_of_fill_zero {s : State} {k : Channel} (h : GenerateLegal s k) (hf : (s.chan k).fill = 0#32) :
    s.generate k = s.raise .degenerateState k.field := by
  rw [generate_eq, if_pos ((genParamsLegal_iff s k).mpr h), if_pos hf]

/-! ### Its errors -/

theorem cstatWord_field (c : Code) (k : Channel) :
    cstatWord c.bits k.field = statusWord c.bits.toNat (channelNumber k) := by
  cases c <;> cases k <;> rfl

/-- An outcome blamed on a channel writes CSTAT and ends the command (60_exceptions.md R186). -/
theorem raise_field (s : State) (c : Code) (k : Channel) :
    s.raise c k.field = { s with cstat := statusWord c.bits.toNat (channelNumber k), phase := .idle } := by
  rw [← cstatWord_field]
  rfl

/-- Settles O15: the parameter checks come before the check of the seed. -/
theorem generateErrorsWriteOnlyCstat : Obligations.GenerateErrorsWriteOnlyCstat := by
  intro k s
  constructor
  · intro h
    rw [exec_gen_field, generate_of_not_legal h, raise_field]
    rfl
  · intro h hf
    rw [exec_gen_field, generate_of_fill_zero h hf, raise_field]
    rfl

/-! ### Its effect -/

/-- A generation leaves alone everything but the channels and the sequences. -/
theorem generateInto_eq (s : State) (k : Channel) (f : Word) (len : Nat) :
    s.generateInto k f len = { s with
      ch1 := (s.generateInto k f len).ch1, ch2 := (s.generateInto k f len).ch2, ch3 := (s.generateInto k f len).ch3
      seq1 := (s.generateInto k f len).seq1, seq2 := (s.generateInto k f len).seq2
      seq3 := (s.generateInto k f len).seq3 } := by
  cases k <;> rfl

/-- Settles O14: the memories, the channel, the other channels and the rest, one after the other. -/
theorem generateWritesSequenceAndFill : Obligations.GenerateWritesSequenceAndFill := by
  intro k s h hf
  refine ⟨_, exec_gen_field s k, ?_⟩
  rw [generate_of_legal h hf]
  refine ⟨fun sp a => ?_, ?_, fun j hj => by simp [hj], ?_⟩
  · rw [bitAt_concludeOk, bitAt_generateInto]
    split
    · next ha => rw [List.getD_eq_getElem?_getD, getElem?_lfsrGen _ _ _ _ _ ha.2]; rfl
    · rfl
  · rw [chan_concludeOk, chan_generateInto_same, lfsrGen_snd, State.degree]
  · exact congrArg State.concludeOk (generateInto_eq s k _ _)

/-- Settles O16: the post-run state of the first `GEN k` is a legal nonzero seed of the second, whose sequence is that of
the first from element GLEN on. -/
theorem secondGenerateContinues : Obligations.SecondGenerateContinues := by
  intro k s hparams hlegal hfill htap
  obtain ⟨⟨hdeg, hdmax, hmask⟩, hlen, hwidth⟩ := id hlegal
  obtain ⟨⟨-, hdmax32⟩, -⟩ := hparams
  have hn : 1 ≤ (s.chan k).deg.toNat := by omega
  have hn' : (s.chan k).deg.toNat ≤ 32 := by omega
  obtain ⟨t, ht, -, hchan, -, hframe⟩ := generateWritesSequenceAndFill k s hlegal hfill
  have hglen : t.glen = s.glen := (congrArg State.glen hframe :)
  have hp : t.params = s.params := (congrArg State.params hframe :)
  have hfill' : (t.chan k).fill ≠ 0#32 := by
    rw [hchan]
    exact iterate_ne_zero hn hn' htap hwidth hfill s.glen.toNat
  have hlegal' : GenerateLegal t k := by
    rw [GenerateLegal, LfsrLegal, hchan, hglen, hp]
    exact ⟨⟨hdeg, hdmax, hmask⟩, hlen, iterate_mem_lfsrStates hn hn' _ hwidth _⟩
  obtain ⟨u, hu, hbits, hchan', -, hframe'⟩ := generateWritesSequenceAndFill k t hlegal' hfill'
  refine ⟨t, u, ht, hu, hfill', congrArg State.cstat hframe', fun a ha => ?_, ?_⟩
  · rw [hbits, if_pos ⟨rfl, hglen ▸ ha⟩, hchan]
    exact seqBit_iterate _ _ _ _ _
  · rw [hchan', hchan, hglen, Nat.two_mul, Function.iterate_add_apply]

end Sys2Proof.Machine
end

section
/-! SUPPORT. No command writes what the host configures (the written lists of 40_lfsr_generate.md R83, 41_geffe_combine.md
R102, 42_correlation_search.md R117, 43_consistency_search.md R145, 44_recover_pipeline.md R161). -/

namespace Sys2Proof.Machine

/-! ### The end of a command -/

theorem keepsInputs_refl (s : State) : KeepsInputs s s := keepsInputs_of_eq rfl rfl rfl (fun _ => rfl) rfl rfl

section
variable {s t : State} (h : KeepsInputs s t)
include h

theorem KeepsInputs.conclude (c : BitVec 4) (b : BitVec 2) : KeepsInputs s (t.conclude c b) :=
  h.trans (keepsInputs_of_eq (by simp) (by simp) (by simp) (by simp) (by simp) (by simp))

theorem KeepsInputs.concludeOk : KeepsInputs s t.concludeOk := h.conclude _ _

theorem KeepsInputs.raise (c : Code) (b : BitVec 2) : KeepsInputs s (t.raise c b) := h.conclude _ _

theorem KeepsInputs.raiseIllegal : KeepsInputs s t.raiseIllegal := h.raise _ _

theorem KeepsInputs.concludeSearch (ks : List Channel) : KeepsInputs s (t.concludeSearch ks) := by
  obtain ⟨k, -, -, e⟩ | ⟨-, e⟩ := concludeSearch_cases t ks
  · exact e ▸ h.conclude _ _
  · exact e ▸ h.concludeOk

/-! ### RECOVER -/

theorem KeepsInputs.markBad (k : Channel) : KeepsInputs s (t.markBad k) := by
  unfold State.markBad
  split
  · exact h
  · exact h.trans (keepsInputs_failSearch t k .invalidParameter)

theorem KeepsInputs.clearResults : KeepsInputs s t.clearResults :=
  ((h.trans (keepsInputs_failSearch _ .c1 .none)).trans (keepsInputs_failSearch _ .c2 .none)).trans
    (keepsInputs_failSearch _ .c3 .none)

theorem KeepsInputs.recoverSearch : KeepsInputs s t.recoverSearch :=
  (h.trans (keepsInputs_setPhase t .scan12)).trans (keepsInputs_corrBoth _)

theorem KeepsInputs.recoverRegenerate : KeepsInputs s t.recoverRegenerate :=
  ((h.trans (keepsInputs_setPhase t .regen)).trans (keepsInputs_generateInto _ .c1 _ _)).trans
    (keepsInputs_generateInto _ .c2 _ _)

theorem KeepsInputs.recoverSelect : KeepsInputs s t.recoverSelect :=
  (h.trans (keepsInputs_setPhase t .scan3)).trans (keepsInputs_fselUnit _)

theorem KeepsInputs.recoverVerify : KeepsInputs s t.recoverVerify :=
  ((h.trans (keepsInputs_setPhase t .verify)).trans (keepsInputs_generateInto _ .c3 _ _)).trans
    (keepsInputs_combineInto _ _)

theorem KeepsInputs.recoverStages : KeepsInputs s t.recoverStages := by
  have hselect : KeepsInputs s t.recoverSearch.recoverRegenerate.recoverSelect :=
    h.recoverSearch.recoverRegenerate.recoverSelect
  obtain ⟨k, -, -, e⟩ | ⟨-, -, -, e⟩ | ⟨-, -, -, e⟩ := recoverStages_cases t
  · exact e ▸ h.recoverSearch.conclude _ _
  · exact e ▸ hselect.conclude _ _
  · exact e ▸ hselect.recoverVerify.concludeOk

end

theorem execRecover_keepsInputs (s : State) : ∃ t, execRecover s = .next t ∧ KeepsInputs s t := by
  have hcleared : KeepsInputs s (s.setPhase .check).clearResults := (keepsInputs_setPhase s .check).clearResults
  obtain ⟨k, e⟩ | ⟨-, e⟩ := execRecover_cases s
  · exact ⟨_, e, (((hcleared.markBad .c1).markBad .c2).markBad .c3).raise _ _⟩
  · exact ⟨_, e, hcleared.recoverStages⟩

/-! ### Every command -/

theorem generate_keepsInputs (s : State) (k : Channel) : KeepsInputs s (s.generate k) := by
  obtain ⟨-, e⟩ | ⟨-, c, -, e⟩ := generate_cases s k
  · exact e ▸ (keepsInputs_generateInto s k _ _).concludeOk
  · exact e ▸ (keepsInputs_refl s).raise c _

/-- No command writes a configuration register or TGT. -/
theorem exec_keepsInputs (i : Instr) (s : State) : ∃ t, exec i s = .next t ∧ KeepsInputs s t := by
  have h : KeepsInputs s s := keepsInputs_refl s
  cases i with
  | gen ch =>
    simp only [exec, execGen]
    split
    · exact ⟨_, rfl, generate_keepsInputs s _⟩
    · exact ⟨_, rfl, h.raiseIllegal⟩
  | comb =>
    simp only [exec, execComb]
    split
    · exact ⟨_, rfl, h.raise _ _⟩
    · exact ⟨_, rfl, (keepsInputs_combineInto s _).concludeOk⟩
  | corr ch =>
    simp only [exec, execCorr]
    split
    · next k _ => exact ⟨_, rfl, (keepsInputs_corrUnit s .a k).concludeSearch [k]⟩
    · exact ⟨_, rfl, h.raiseIllegal⟩
  | corr2 => exact ⟨_, rfl, (keepsInputs_corrBoth s).concludeSearch _⟩
  | fsel => exact ⟨_, rfl, (keepsInputs_fselUnit s).concludeSearch _⟩
  | recover => exact execRecover_keepsInputs s

/-- Settles O42: the configuration is among what no command writes, and the host's side lies outside the frame of every
command. -/
theorem commandsKeepTheConfiguration : Obligations.CommandsKeepTheConfiguration := by
  intro i s
  obtain ⟨t, ht, hkeeps⟩ := exec_keepsInputs i s
  obtain ⟨u, hu, hends⟩ := exec_endsWithin i s
  obtain rfl : t = u := by injection ht.symm.trans hu
  exact ⟨t, ht, hkeeps.config, hends.host⟩

end Sys2Proof.Machine
end

section
/-! SUPPORT. The combiner and what COMB does (41_geffe_combine.md R100 to R102). -/

namespace Sys2Proof.Machine

/-- Settles O17, by the two values of the selector. -/
theorem combinerFormsAgree : Obligations.CombinerFormsAgree := by
  intro x y z
  refine ⟨?_, rfl, rfl⟩
  cases z with
  | true => simp [geffeBool, geffe]
  | false => simp [geffeBool, geffe]

/-! ### The outcomes of COMB -/

theorem exec_comb_of_legal {s : State} (h : s.GenLengthLegal) :
    exec .comb s = .next (s.combineInto s.glen.toNat).concludeOk :=
  if_neg (not_not.mpr h)

theorem exec_comb_of_not_legal {s : State} (h : ¬ s.GenLengthLegal) :
    exec .comb s = .next (s.raise .invalidParameter 0#2) :=
  if_pos h

/-- An outcome that blames no channel writes CSTAT and ends the command (60_exceptions.md R186). -/
theorem raise_unblamed (s : State) (c : Code) :
    s.raise c 0#2 = { s with cstat := statusWord c.bits.toNat 0, phase := .idle } := by
  have hword : cstatWord c.bits 0#2 = statusWord c.bits.toNat 0 := by cases c <;> rfl
  rw [← hword]
  rfl

/-! ### Its effect -/

/-- A combination leaves alone everything but OUT. -/
theorem combineInto_eq (s : State) (len : Nat) : s.combineInto len = { s with out := (s.combineInto len).out } := rfl

/-- Settles O18: the memories and the rest of a legal COMB, then the one error. -/
theorem combineWritesOut : Obligations.CombineWritesOut := by
  intro s
  constructor
  · intro hlen
    refine ⟨_, exec_comb_of_legal hlen, fun sp a => ?_, ?_⟩
    · rw [bitAt_concludeOk, bitAt_combineInto]
      rfl
    · exact congrArg State.concludeOk (combineInto_eq s _)
  · intro hlen
    rw [exec_comb_of_not_legal (Nat.not_le.mpr hlen), raise_unblamed]
    rfl

end Sys2Proof.Machine
end

section
/-! SUPPORT. The distances and the candidates of a correlation search (42_correlation_search.md R114, R120, R121). -/

namespace Sys2Proof.Machine

/-! ### The windows of the run -/

/-- Settles O19: the run a search builds is a generation that starts at state 0 of the run. -/
theorem runBufferHoldsTrueRunBits : Obligations.RunBufferHoldsTrueRunBits := fun n m _ _ ht => getElem?_runBuffer n m ht

/-- The window of candidate j: the run is long enough for every bit of it. -/
theorem window_runBuffer {n : Nat} (m : Word) (len : Nat) {j : Nat} (hj : j < 2 ^ n) :
    window (runBuffer n m len) j len = (List.range len).map fun i => runBit n m (j + i) := by
  refine List.ext_getElem? fun i => ?_
  by_cases hi : i < len
  · have hlt : j + i < runLength n len := by
      have := le_max_left len n
      unfold runLength
      omega
    simp [window, hi, getElem?_runBuffer n m hlt]
  · simp [window, hi]

/-! ### The Hamming distance -/

/-- The Hamming-distance unit adds up one term per position (R114). -/
theorem hammingDistance_map_range (len : Nat) : ∀ f g : Nat → Bool,
    hammingDistance ((List.range len).map f) ((List.range len).map g) =
      ∑ i ∈ Finset.range len, if f i = g i then 0 else 1 := by
  induction len with
  | zero => exact fun _ _ => rfl
  | succ len ih =>
    intro f g
    have hfirst : (f 0 ^^ g 0).toNat = if f 0 = g 0 then 0 else 1 := by cases f 0 <;> cases g 0 <;> rfl
    rw [List.range_succ_eq_map, List.map_cons, List.map_cons, List.map_map, List.map_map, hammingDistance,
      ih (f ∘ Nat.succ) (g ∘ Nat.succ), hfirst, Finset.sum_range_succ', Nat.add_comm]
    rfl

theorem distance_le_nreq (s : State) (k : Channel) (j : Nat) : distance s k j ≤ (s.chan k).nreq.toNat := by
  calc distance s k j ≤ ∑ _i ∈ Finset.range (s.chan k).nreq.toNat, 1 :=
        Finset.sum_le_sum fun i _ => by split <;> decide
    _ = (s.chan k).nreq.toNat := by simp

/-- What a correlation search reads of its channel and of the target, when its checks pass (R110). -/
theorem corrInput_reads {s : State} {k : Channel} {x : CorrInput} (h : s.corrInput k = some x) :
    x.nreq = (s.chan k).nreq.toNat ∧ x.target = s.readSeq .tgt x.nreq ∧ x.threshold = (s.chan k).thresh := by
  unfold State.corrInput at h
  split at h
  · cases h
    exact ⟨rfl, rfl, rfl⟩
  · cases h

theorem hammingDistance_window {s : State} {k : Channel} {x : CorrInput} (h : s.corrInput k = some x) {j : Nat}
    (hj : j < 2 ^ x.n) : hammingDistance (window x.run j x.nreq) x.target = distance s k j := by
  obtain ⟨-, hn, hrun⟩ := corrInput_eq_some h
  obtain ⟨hnreq, htarget, -⟩ := corrInput_reads h
  rw [htarget, hrun, hnreq, window_runBuffer _ _ hj, State.readSeq, hammingDistance_map_range, hn]
  rfl

/-- Settles O21: the window holds the run bits of R114, and the target N_req bits. -/
theorem hammingUnitComputesDistance : Obligations.HammingUnitComputesDistance := by
  intro s k x j hx hj
  obtain ⟨-, hn, -⟩ := corrInput_eq_some hx
  exact ⟨hammingDistance_window hx (hn ▸ hj), distance_le_nreq s k j⟩

/-! ### Repeated candidates -/

/-- The window of candidate j is the sequence that its state generates: "the window is a function of the state" (R120). -/
theorem runBit_add (n : Nat) (m : Word) (j i : Nat) : runBit n m (j + i) = seqBit n m (runState n m j) i := by
  rw [runState_eq_iterate, seqBit_iterate, runBit, runState_eq_iterate]
  rfl

/-- Equal candidates have equal distances. -/
theorem distance_eq_of_candidate_eq {s : State} {k : Channel} {i j : Nat} (h : candidate s k i = candidate s k j) :
    distance s k i = distance s k j := by
  unfold candidate at h
  simp only [distance, runBit_add, h]

/-- With tap 0 the run returns to 1 within 2^n - 1 steps: of its first 2^n states, none of them zero, two are equal, and
steps can be undone. -/
theorem exists_return_of_tap_zero {n : Nat} (hn : 1 ≤ n) (hn' : n ≤ 32) {m : Word} (htap : m.getLsbD 0 = true) :
    ∃ p, 0 < p ∧ p ≤ 2 ^ n - 1 ∧ Function.IsPeriodicPt (lfsrStep n m) p 1#32 := by
  have hone : 1#32 ∈ lfsrStates n := Nat.one_lt_two_pow (by omega)
  have hmem := iterate_mem_lfsrStates hn hn' m hone
  have hne := iterate_ne_zero hn hn' htap hone (by decide)
  have hmaps : ∀ j ∈ Finset.range (2 ^ n), ((lfsrStep n m)^[j] 1#32).toNat ∈ Finset.Ico 1 (2 ^ n) := fun j _ =>
    Finset.mem_Ico.mpr ⟨Nat.pos_of_ne_zero fun h => hne j (BitVec.eq_of_toNat_eq h), hmem j⟩
  have hcard : (Finset.Ico 1 (2 ^ n)).card < (Finset.range (2 ^ n)).card := by
    rw [Nat.card_Ico, Finset.card_range]
    exact Nat.sub_lt (by positivity) one_pos
  obtain ⟨i, hi, j, hj, hij, heq⟩ := Finset.exists_ne_map_eq_of_card_lt_of_maps_to hcard hmaps
  rw [Finset.mem_range] at hi hj
  wlog hlt : i < j generalizing i j
  · exact this j hj i hi hij.symm heq.symm (by omega)
  refine ⟨j - i, by omega, by omega, ?_⟩
  refine (lfsrStep_injOn hn hn' htap).iterate (lfsrStep_mapsTo hn hn' m) i (hmem _) hone ?_
  rw [← Function.iterate_add_apply, Nat.add_sub_cancel' hlt.le]
  exact BitVec.eq_of_toNat_eq heq.symm

/-- Settles O25. With tap 0 the run has a period p of at most 2^n - 1, so the last candidate repeats the one p before;
without it every candidate but the first is 0. -/
theorem lastCandidateRepeatsAnEarlierOne : Obligations.LastCandidateRepeatsAnEarlierOne := by
  intro n m hn hn' _ _
  have hfour : 2 ^ 2 ≤ 2 ^ n := Nat.pow_le_pow_right (by decide) hn
  simp only [runState_eq_iterate]
  cases htap : m.getLsbD 0 with
  | true =>
    obtain ⟨p, hpos, hle, hp⟩ := exists_return_of_tap_zero (by omega) hn' htap
    refine ⟨2 ^ n - 1 - p, by omega, ?_⟩
    calc (lfsrStep n m)^[2 ^ n - 1] 1#32
        = (lfsrStep n m)^[2 ^ n - 1 - p] ((lfsrStep n m)^[p] 1#32) := by
          rw [← Function.iterate_add_apply, Nat.sub_add_cancel hle]
      _ = (lfsrStep n m)^[2 ^ n - 1 - p] 1#32 := congrArg _ hp
  | false =>
    have hzero : ∀ t, (lfsrStep n m)^[t + 1] 1#32 = 0#32 := fun t => by
      rw [Function.iterate_succ_apply, lfsrStep_one htap, Function.iterate_fixed (lfsrStep_zero n m)]
    refine ⟨1, by omega, ?_⟩
    rw [hzero 0, show 2 ^ n - 1 = (2 ^ n - 2) + 1 by omega, hzero]

end Sys2Proof.Machine
end

section
/-! SUPPORT. The scan of a correlation search keeps the first of the nearest acceptable candidates (42_correlation_search.md
R115 to R117, R120). -/

namespace Sys2Proof.Machine

/-! ### Its checks -/

/-- The checks of a correlation search are those of R182. -/
theorem corrLegal_iff (s : State) (k : Channel) : s.CorrLegal k ↔ CorrelateLegal s k := by
  have hpos (w : Word) : w ≠ 0#32 ↔ 0 < w.toNat := by
    rw [Nat.pos_iff_ne_zero, ne_eq, ne_eq, ← BitVec.toNat_inj]
    rfl
  simp only [State.CorrLegal, State.DegreeLegal, State.MaskLegal, State.TargetLegal, State.PrefixLegal, State.degree,
    CorrelateLegal, LfsrLegal, hpos, Nat.one_le_iff_ne_zero, Nat.pos_iff_ne_zero, and_assoc]

theorem exists_corrInput {s : State} {k : Channel} (h : CorrelateLegal s k) : ∃ x, s.corrInput k = some x :=
  ⟨_, if_pos ((corrLegal_iff s k).mpr h)⟩

theorem corrInput_of_not_legal {s : State} {k : Channel} (h : ¬ CorrelateLegal s k) : s.corrInput k = none :=
  if_neg (mt (corrLegal_iff s k).mp h)

/-! ### One sequencer step -/

/-- The distance of candidate j as the unit holds it. -/
def CorrInput.score (x : CorrInput) (j : Nat) : Word :=
  BitVec.ofNat 32 (hammingDistance (window x.run j x.nreq) x.target)

/-- The test of a sequencer step (R115). -/
abbrev CorrInput.Accepts (x : CorrInput) (u : SearchUnit) : Prop :=
  u.cand ≠ 0#32 ∧ x.score u.j.toNat < x.threshold ∧ x.score u.j.toNat < u.bestr

theorem bests_corrStep (x : CorrInput) (u : SearchUnit) :
    (corrStep x u).bests = if x.Accepts u then u.cand else u.bests := rfl

theorem bestr_corrStep (x : CorrInput) (u : SearchUnit) :
    (corrStep x u).bestr = if x.Accepts u then x.score u.j.toNat else u.bestr := rfl

/-! ### The best candidate so far -/

/-- Candidate `w` is the winner among the first `b` (R115). -/
def BestBelow (s : State) (k : Channel) (b w : Nat) : Prop :=
  w < b ∧ Acceptable s k w ∧
    ∀ i, i < b → Acceptable s k i → distance s k w < distance s k i ∨ (distance s k w = distance s k i ∧ w ≤ i)

theorem winner_iff (s : State) (k : Channel) (w : Nat) : Winner s k w ↔ BestBelow s k (2 ^ (s.chan k).deg.toNat) w :=
  Iff.rfl

theorem BestBelow.unique {s : State} {k : Channel} {b v w : Nat} (hv : BestBelow s k b v) (hw : BestBelow s k b w) :
    v = w := by
  obtain ⟨hvb, hva, hvmin⟩ := hv
  obtain ⟨hwb, hwa, hwmin⟩ := hw
  have := hvmin w hwb hwa
  have := hwmin v hvb hva
  omega

/-- A further candidate that is nearer than all acceptable ones before it is the best. -/
theorem BestBelow.replace {s : State} {k : Channel} {b : Nat} (hb : Acceptable s k b)
    (hmin : ∀ i, i < b → Acceptable s k i → distance s k b < distance s k i) : BestBelow s k (b + 1) b := by
  refine ⟨b.lt_succ_self, hb, fun i hi hia => ?_⟩
  obtain hlt | rfl := Nat.lt_succ_iff_lt_or_eq.mp hi
  · exact .inl (hmin i hlt hia)
  · exact .inr ⟨rfl, le_rfl⟩

/-- A further candidate that is no nearer leaves the best in place: a tie goes to the lower index. -/
theorem BestBelow.keep {s : State} {k : Channel} {b w : Nat} (hw : BestBelow s k b w)
    (hb : Acceptable s k b → distance s k w ≤ distance s k b) : BestBelow s k (b + 1) w := by
  obtain ⟨hwb, hwa, hmin⟩ := hw
  refine ⟨by omega, hwa, fun i hi hia => ?_⟩
  obtain hlt | rfl := Nat.lt_succ_iff_lt_or_eq.mp hi
  · exact hmin i hlt hia
  · have := hb hia
    omega

/-- What BESTS and BESTR hold after the first `b` candidates: nothing, as long as none is acceptable, else the best one's
state and distance. -/
inductive HoldsBest (s : State) (k : Channel) (b : Nat) (u : SearchUnit) : Prop
  | none (hnone : ∀ i, i < b → ¬ Acceptable s k i) (hr : u.bestr = distNone)
  | best {w : Nat} (hw : BestBelow s k b w) (hs : u.bests = candidate s k w) (hr : u.bestr.toNat = distance s k w)

/-- No acceptable candidate scored so far is nearer than BESTR. -/
theorem HoldsBest.bestr_le {s : State} {k : Channel} {b : Nat} {u : SearchUnit} (h : HoldsBest s k b u) {i : Nat}
    (hi : i < b) (hia : Acceptable s k i) : u.bestr.toNat ≤ distance s k i := by
  cases h with
  | none hnone _ => exact absurd hia (hnone i hi)
  | best hw _ hr =>
    obtain ⟨-, -, hmin⟩ := hw
    have := hmin i hi hia
    omega

/-! ### The scan -/

section
variable {s : State} {k : Channel} {x : CorrInput} (hp : s.params.Legal) (hx : s.corrInput k = some x)
include hp hx

/-- A distance is a number of target bits, of which there are fewer than 2^31. -/
theorem distance_lt_of_legal (j : Nat) : distance s k j < 2147483648 := by
  obtain ⟨⟨-, -, ⟨-, hlmax⟩, ⟨-, htlen⟩⟩, -⟩ := corrInput_eq_some hx
  obtain ⟨-, -, hbound⟩ := hp
  have := distance_le_nreq s k j
  omega

theorem toNat_score {j : Nat} (hj : j < 2 ^ x.n) : (x.score j).toNat = distance s k j := by
  have := distance_lt_of_legal hp hx j
  rw [CorrInput.score, hammingDistance_window hx hj, BitVec.toNat_ofNat, Nat.mod_eq_of_lt (by omega)]

/-- The unit that stands at candidate `b` accepts it if it may be accepted and is strictly nearer than the best so far. -/
theorem accepts_iff {u : SearchUnit} {b : Nat} (hb : b < 2 ^ x.n) (hj : u.j.toNat = b) (hc : u.cand = candidate s k b) :
    x.Accepts u ↔ Acceptable s k b ∧ distance s k b < u.bestr.toNat := by
  obtain ⟨-, -, hthreshold⟩ := corrInput_reads hx
  rw [CorrInput.Accepts, hj, hc, BitVec.lt_def, BitVec.lt_def, toNat_score hp hx hb, hthreshold, Acceptable, and_assoc]

/-- One sequencer step at candidate `b` extends what BESTS and BESTR hold to `b`. -/
theorem HoldsBest.corrStep {u : SearchUnit} {b : Nat} (h : HoldsBest s k b u) (hb : b < 2 ^ x.n) (hj : u.j.toNat = b)
    (hc : u.cand = candidate s k b) : HoldsBest s k (b + 1) (corrStep x u) := by
  have haccepts := accepts_iff hp hx hb hj hc
  by_cases ha : x.Accepts u
  · obtain ⟨hacceptable, hnearer⟩ := haccepts.mp ha
    refine .best (.replace hacceptable fun i hi hia => hnearer.trans_le (h.bestr_le hi hia)) ?_ ?_
    · rw [bests_corrStep, if_pos ha, hc]
    · rw [bestr_corrStep, if_pos ha, hj, toNat_score hp hx hb]
  · have hkeep := mt haccepts.mpr ha
    rw [not_and, not_lt] at hkeep
    have hr : (Machine.corrStep x u).bestr = u.bestr := by rw [bestr_corrStep, if_neg ha]
    cases h with
    | none hnone hbestr =>
      refine .none (fun i hi hia => ?_) (hr.trans hbestr)
      obtain hlt | rfl := Nat.lt_succ_iff_lt_or_eq.mp hi
      · exact hnone i hlt hia
      · have hfar : distNone.toNat ≤ distance s k i := hbestr ▸ hkeep hia
        exact absurd (distance_lt_of_legal hp hx i) (not_lt.mpr (le_trans (by decide) hfar))
    | best hw hbests hbestr =>
      exact .best (hw.keep (hbestr ▸ hkeep)) (by rw [bests_corrStep, if_neg ha, hbests]) (hr ▸ hbestr)

/-- The unit after `b` sequencer steps, at candidate `b`. -/
theorem corrStep_iterate_at (u : SearchUnit) {b : Nat} (hb : b < 2 ^ x.n) :
    ((corrStep x)^[b] u.start).j.toNat = b ∧ ((corrStep x)^[b] u.start).cand = candidate s k b := by
  obtain ⟨-, hn, -⟩ := corrInput_eq_some hx
  rw [hn] at hb
  obtain ⟨hj, hc⟩ := trackedCandidateIsTheRunState s k x u b hp hx hb.le
  exact ⟨by omega, hc⟩

theorem holdsBest_iterate (u : SearchUnit) {b : Nat} (hb : b ≤ 2 ^ x.n) :
    HoldsBest s k b ((corrStep x)^[b] u.start) := by
  induction b with
  | zero => exact .none (fun _ hi => absurd hi (Nat.not_lt_zero _)) rfl
  | succ b ih =>
    obtain ⟨hj, hc⟩ := corrStep_iterate_at hp hx u hb
    rw [Function.iterate_succ_apply']
    exact (ih (by omega)).corrStep hp hx hb hj hc

theorem holdsBest_corrScan (u : SearchUnit) :
    HoldsBest s k (2 ^ (s.chan k).deg.toNat) (corrScan x u.start) := by
  obtain ⟨-, hn, -⟩ := corrInput_eq_some hx
  rw [← hn]
  exact holdsBest_iterate hp hx u le_rfl

/-- The last candidate is never accepted: it repeats an earlier one, and only a strictly nearer candidate replaces the
best (R120). -/
theorem not_accepts_last (u : SearchUnit) : ¬ x.Accepts ((corrStep x)^[2 ^ x.n - 1] u.start) := by
  obtain ⟨hlegal, hn, -⟩ := corrInput_eq_some hx
  obtain ⟨⟨hmin, hmax, hmask⟩, -⟩ := (corrLegal_iff s k).mp hlegal
  obtain ⟨⟨-, hdmax⟩, -⟩ := id hp
  have hlast : 2 ^ x.n - 1 < 2 ^ x.n := Nat.sub_lt (by positivity) one_pos
  obtain ⟨hj, hc⟩ := corrStep_iterate_at hp hx u hlast
  obtain ⟨i, hi, hrepeat⟩ := lastCandidateRepeatsAnEarlierOne _ _ hmin (by omega) hmask.1 hmask.2
  rw [← hn] at hi hrepeat
  have hsame : candidate s k (2 ^ x.n - 1) = candidate s k i := by
    rw [candidate, candidate, ← hn]
    exact hrepeat
  have hdistance := distance_eq_of_candidate_eq hsame
  rw [accepts_iff hp hx hlast hj hc]
  rintro ⟨⟨hne, hbelow⟩, hnearer⟩
  have hia : Acceptable s k i := ⟨hsame ▸ hne, hdistance ▸ hbelow⟩
  have := (holdsBest_iterate hp hx u hlast.le).bestr_le hi hia
  omega

end

/-- Settles O26: the whole scan is one more sequencer step, which accepts nothing. -/
theorem scanWithoutLastCandidateAgrees : Obligations.ScanWithoutLastCandidateAgrees := by
  intro s k x u hp hx
  have hlast : corrScan x u.start = corrStep x ((corrStep x)^[2 ^ x.n - 1] u.start) := by
    rw [← Function.iterate_succ_apply' (corrStep x), Nat.succ_eq_add_one, Nat.sub_add_cancel Nat.one_le_two_pow]
    rfl
  have hrejected := not_accepts_last hp hx u
  rw [hlast, bests_corrStep, bestr_corrStep, if_neg hrejected, if_neg hrejected]
  exact ⟨rfl, rfl⟩

end Sys2Proof.Machine
end

section
/-! SUPPORT. What CORR k does (42_correlation_search.md R115 to R117; 60_exceptions.md R182, R185, R186). -/

namespace Sys2Proof.Machine

/-! ### The channel a search leaves -/

/-- A complete scan leaves its registers in its unit, and its result (R116). -/
theorem corrUnit_of_corrInput {s : State} {k : Channel} {x : CorrInput} (w : UnitId) (h : s.corrInput k = some x) :
    s.corrUnit w k =
      (s.setUnit w (corrScan x (s.unit w).start)).corrResult k (corrScan x (s.unit w).start) := by
  rw [State.corrUnit, h]
  rfl

theorem corrUnit_of_not_legal {s : State} {k : Channel} (w : UnitId) (h : ¬ CorrelateLegal s k) :
    s.corrUnit w k = s.failSearch k .invalidParameter := by
  rw [State.corrUnit, corrInput_of_not_legal h]
  rfl

theorem corrResult_of_ne_none (s : State) (k : Channel) {u : SearchUnit} (h : u.bestr ≠ distNone) :
    s.corrResult k u = s.setResult k u.bests u.bestr .ok := if_pos h

theorem corrResult_of_eq_none (s : State) (k : Channel) {u : SearchUnit} (h : u.bestr = distNone) :
    s.corrResult k u = s.failSearch k .recoveryFailure := if_neg (not_not.mpr h)

theorem chan_corrUnit_of_bestr_none {s : State} {k : Channel} {x : CorrInput} (w : UnitId)
    (hx : s.corrInput k = some x) (h : (corrScan x (s.unit w).start).bestr = distNone) :
    (s.corrUnit w k).chan k =
      { s.chan k with rfill := 0#32, rdist := distNone, rstat := rstatWord .recoveryFailure } := by
  rw [corrUnit_of_corrInput w hx, corrResult_of_eq_none _ _ h, chan_failSearch_same, chan_setUnit]

/-- A search with a winner returns its state and distance: the scan ends with them in BESTS and BESTR. -/
theorem chan_corrUnit_of_winner {s : State} {k : Channel} (w : UnitId) (hp : s.params.Legal) (hl : CorrelateLegal s k)
    {j : Nat} (hj : Winner s k j) :
    (s.corrUnit w k).chan k =
      { s.chan k with
        rfill := candidate s k j, rdist := BitVec.ofNat 32 (distance s k j), rstat := rstatWord .ok } := by
  obtain ⟨x, hx⟩ := exists_corrInput hl
  cases holdsBest_corrScan hp hx (s.unit w) with
  | none hnone _ =>
    obtain ⟨hlt, hacceptable, -⟩ := hj
    exact absurd hacceptable (hnone j hlt)
  | best hbest hs hr =>
    rw [hbest.unique ((winner_iff s k j).mp hj)] at hs hr
    have hreal : (corrScan x (s.unit w).start).bestr ≠ distNone := fun hnone => by
      have hlt := distance_lt_of_legal hp hx j
      rw [← hr, hnone] at hlt
      exact absurd hlt (by decide)
    rw [corrUnit_of_corrInput w hx, corrResult_of_ne_none _ _ hreal, chan_setResult_same, chan_setUnit, hs, ← hr,
      BitVec.ofNat_toNat, BitVec.setWidth_eq]

theorem chan_corrUnit_of_no_acceptable {s : State} {k : Channel} (w : UnitId) (hp : s.params.Legal)
    (hl : CorrelateLegal s k) (h : ∀ j, j < 2 ^ (s.chan k).deg.toNat → ¬ Acceptable s k j) :
    (s.corrUnit w k).chan k =
      { s.chan k with rfill := 0#32, rdist := distNone, rstat := rstatWord .recoveryFailure } := by
  obtain ⟨x, hx⟩ := exists_corrInput hl
  cases holdsBest_corrScan hp hx (s.unit w) with
  | none _ hr => exact chan_corrUnit_of_bestr_none w hx hr
  | best hbest _ _ =>
    obtain ⟨hlt, hacceptable, -⟩ := hbest
    exact absurd hacceptable (h _ hlt)

theorem chan_corrUnit_of_not_legal {s : State} {k : Channel} (w : UnitId) (h : ¬ CorrelateLegal s k) :
    (s.corrUnit w k).chan k =
      { s.chan k with rfill := 0#32, rdist := distNone, rstat := rstatWord .invalidParameter } := by
  rw [corrUnit_of_not_legal w h, chan_failSearch_same]

/-! ### Threshold 0 -/

/-- With threshold 0 no distance is below it, so a sequencer step never replaces the best. -/
theorem bestr_corrStep_of_threshold_zero {x : CorrInput} (h : x.threshold = 0#32) (u : SearchUnit) :
    (corrStep x u).bestr = u.bestr := by
  rw [bestr_corrStep, if_neg]
  rintro ⟨-, hbelow, -⟩
  rw [h] at hbelow
  exact BitVec.not_lt_zero hbelow

theorem bestr_corrScan_of_threshold_zero {x : CorrInput} (h : x.threshold = 0#32) (u : SearchUnit) :
    (corrScan x u.start).bestr = distNone := by
  have hsteps : ∀ b, ((corrStep x)^[b] u.start).bestr = distNone := by
    intro b
    induction b with
    | zero => rfl
    | succ b ih => rw [Function.iterate_succ_apply', bestr_corrStep_of_threshold_zero h, ih]
  exact hsteps (2 ^ x.n)

/-! ### CSTAT -/

/-- The end of a searching command looks at its channels one after the other: the first that is not OK is reported. -/
theorem cstat_concludeSearch_cons (s : State) (k : Channel) (ks : List Channel) :
    (s.concludeSearch (k :: ks)).cstat =
      if (s.chan k).rstat = 1#32 then (s.concludeSearch ks).cstat
      else cstatWord (codeField (s.chan k).rstat) k.field := by
  have hok : s.searchOk k = decide ((s.chan k).rstat = 1#32) := rfl
  unfold State.concludeSearch State.firstFailure
  rw [List.find?_cons, hok]
  by_cases h : (s.chan k).rstat = 1#32 <;> simp [h]

theorem cstat_concludeSearch_nil (s : State) : (s.concludeSearch []).cstat = statusWord 1 0 := rfl

theorem codeField_rstatWord (c : Code) : codeField (rstatWord c) = c.bits := by
  cases c <;> rfl

/-- A search that ended with a code other than OK is reported with its code and channel. -/
theorem cstat_concludeSearch_of_failed {s : State} {k : Channel} {c : Code} (ks : List Channel)
    (h : (s.chan k).rstat = rstatWord c) (hc : c ≠ .ok) :
    (s.concludeSearch (k :: ks)).cstat = statusWord c.bits.toNat (channelNumber k) := by
  have hfailed : rstatWord c ≠ 1#32 := rstatWord_ne hc
  rw [cstat_concludeSearch_cons, h, if_neg hfailed, codeField_rstatWord, cstatWord_field]

/-! ### The command -/

/-- `CORR k` on a channel. -/
def State.correlate (s : State) (k : Channel) : State := (s.corrUnit .a k).concludeSearch [k]

theorem exec_corr_field (s : State) (k : Channel) : exec (.corr k.field) s = .next (s.correlate k) := by
  have harm : exec (.corr k.field) s = execCorr k.field s := rfl
  rw [harm, execCorr, ofField_field]
  rfl

theorem concludeSearch_eq (s : State) (ks : List Channel) :
    s.concludeSearch ks = { s with cstat := (s.concludeSearch ks).cstat, phase := .idle } := by
  obtain ⟨k, -, -, e⟩ | ⟨-, e⟩ := concludeSearch_cases s ks <;> rw [e] <;> rfl

@[simp] theorem chan_correlate (s : State) (k j : Channel) : (s.correlate k).chan j = (s.corrUnit .a k).chan j :=
  chan_concludeSearch _ _ _

theorem chan_correlate_ne (s : State) {j k : Channel} (h : j ≠ k) : (s.correlate k).chan j = s.chan j := by
  simp [h]

@[simp] theorem bitAt_correlate (s : State) (k : Channel) (sp : Space) (a : Nat) :
    (s.correlate k).bitAt sp a = s.bitAt sp a := by
  rw [State.correlate, concludeSearch_eq]
  exact bitAt_corrUnit s .a k sp a

/-- `CORR k` changes nothing but the channels, unit A, CSTAT and PHASE. -/
theorem correlate_eq (s : State) (k : Channel) :
    s.correlate k = { s with
      ch1 := (s.correlate k).ch1, ch2 := (s.correlate k).ch2, ch3 := (s.correlate k).ch3
      cstat := (s.correlate k).cstat, unitA := (s.correlate k).unitA, phase := .idle } := by
  obtain ⟨u, f, d, c, e, -⟩ := corrUnit_cases s .a k
  rw [State.correlate, concludeSearch_eq, e]
  cases k <;> rfl

theorem cstat_correlate (s : State) (k : Channel) :
    (s.correlate k).cstat =
      if ((s.corrUnit .a k).chan k).rstat = 1#32 then statusWord 1 0
      else cstatWord (codeField ((s.corrUnit .a k).chan k).rstat) k.field := by
  rw [State.correlate, cstat_concludeSearch_cons, cstat_concludeSearch_nil]

theorem cstat_correlate_of_ok {s : State} {k : Channel} (h : ((s.corrUnit .a k).chan k).rstat = rstatWord .ok) :
    (s.correlate k).cstat = statusWord 1 0 := (cstat_correlate s k).trans (if_pos h)

theorem cstat_correlate_of_failed {s : State} {k : Channel} {c : Code}
    (h : ((s.corrUnit .a k).chan k).rstat = rstatWord c) (hc : c ≠ .ok) :
    (s.correlate k).cstat = statusWord c.bits.toNat (channelNumber k) :=
  cstat_concludeSearch_of_failed [] h hc

/-- Settles O22: the scan's best candidate is the winner, and it has none exactly when no candidate is acceptable. -/
theorem correlateFindsTheWinner : Obligations.CorrelateFindsTheWinner := by
  intro k s hp hl
  refine ⟨_, exec_corr_field s k, fun j hj => ?_, fun hnone => ?_, fun j hj => chan_correlate_ne s hj,
    bitAt_correlate s k, correlate_eq s k⟩
  · have hchan := chan_corrUnit_of_winner .a hp hl hj
    exact ⟨(chan_correlate s k k).trans hchan, cstat_correlate_of_ok (congrArg ChannelRegs.rstat hchan)⟩
  · have hchan := chan_corrUnit_of_no_acceptable .a hp hl hnone
    exact ⟨(chan_correlate s k k).trans hchan,
      cstat_correlate_of_failed (congrArg ChannelRegs.rstat hchan) (by decide)⟩

/-- A rejected `CORR k` leaves the search units alone too. -/
theorem correlate_eq_of_not_legal {s : State} {k : Channel} (h : ¬ CorrelateLegal s k) :
    s.correlate k = { s with
      ch1 := (s.correlate k).ch1, ch2 := (s.correlate k).ch2, ch3 := (s.correlate k).ch3
      cstat := (s.correlate k).cstat, phase := .idle } := by
  rw [State.correlate, concludeSearch_eq, corrUnit_of_not_legal _ h]
  cases k <;> rfl

/-- Settles O23: a search whose checks fail only clears its channel's result. -/
theorem correlateRejectsIllegalParameters : Obligations.CorrelateRejectsIllegalParameters := by
  intro k s h
  have hchan := chan_corrUnit_of_not_legal .a h
  have hcstat : (s.correlate k).cstat = statusWord 3 (channelNumber k) :=
    cstat_correlate_of_failed (congrArg ChannelRegs.rstat hchan) (by decide)
  refine ⟨_, exec_corr_field s k, (chan_correlate s k k).trans hchan, fun j hj => chan_correlate_ne s hj, ?_⟩
  rw [← hcstat]
  exact correlate_eq_of_not_legal h

/-- Settles O24: the scan ends with no best. -/
theorem zeroThresholdAlwaysFails : Obligations.ZeroThresholdAlwaysFails := by
  intro k s hl hzero
  obtain ⟨x, hx⟩ := exists_corrInput hl
  obtain ⟨-, -, hthreshold⟩ := corrInput_reads hx
  have hchan := chan_corrUnit_of_bestr_none .a hx
    (bestr_corrScan_of_threshold_zero (hthreshold.trans hzero) (s.unit .a))
  exact ⟨_, exec_corr_field s k, cstat_correlate_of_failed (congrArg ChannelRegs.rstat hchan) (by decide),
    (chan_correlate s k k).trans hchan⟩

end Sys2Proof.Machine
end

section
/-! SUPPORT. What CORR2 does: the two searches do not see each other, in either order and in any interleaving
(42_correlation_search.md R119). -/

namespace Sys2Proof.Machine

/-! ### One search beside another -/

/-- A search leaves in its channel a function of what it reads and of what the channel held. -/
theorem chan_corrUnit_congr {s t : State} {k : Channel} (w v : UnitId) (hi : s.corrInput k = t.corrInput k)
    (hc : s.chan k = t.chan k) : (s.corrUnit w k).chan k = (t.corrUnit v k).chan k := by
  obtain ⟨hfill, hdist, hstat⟩ := sameResult_corrUnit w v hi
  rw [chan_corrUnit_same s, chan_corrUnit_same t, hc, hfill, hdist, hstat]

@[simp] theorem unit_corrUnit_ne (s : State) (w : UnitId) (k : Channel) {v : UnitId} (h : v ≠ w) :
    (s.corrUnit w k).unit v = s.unit v := by
  obtain ⟨u, f, d, c, e, -⟩ := corrUnit_cases s w k
  simp [e, h]

/-! ### The dual search -/

/-- The two searches of `CORR2` leave in channels 1 and 2 what a search on each alone leaves. -/
theorem chan_corrBoth (s : State) (k : Channel) :
    s.corrBoth.chan k = if k = .c1 ∨ k = .c2 then (s.corrUnit .a k).chan k else s.chan k := by
  cases k with
  | c1 => exact chan_corrUnit_ne _ _ _ _ (by decide)
  | c2 =>
    exact chan_corrUnit_congr .b .a (corrInput_corrUnit_ne s .a (by decide)) (chan_corrUnit_ne _ _ _ _ (by decide))
  | c3 => simp [State.corrBoth]

@[simp] theorem bitAt_corrBoth (s : State) (sp : Space) (a : Nat) : s.corrBoth.bitAt sp a = s.bitAt sp a := by
  simp [State.corrBoth]

/-- `CORR2`. -/
def State.correlateBoth (s : State) : State := s.corrBoth.concludeSearch [.c1, .c2]

theorem exec_corr2 (s : State) : exec .corr2 s = .next s.correlateBoth := rfl

theorem chan_correlateBoth (s : State) (k : Channel) :
    s.correlateBoth.chan k = if k = .c1 ∨ k = .c2 then (s.corrUnit .a k).chan k else s.chan k :=
  (chan_concludeSearch _ _ _).trans (chan_corrBoth s k)

@[simp] theorem bitAt_correlateBoth (s : State) (sp : Space) (a : Nat) :
    s.correlateBoth.bitAt sp a = s.bitAt sp a := by
  rw [State.correlateBoth, concludeSearch_eq]
  exact bitAt_corrBoth s sp a

/-- `CORR2` changes nothing but channels 1 and 2, the search units, CSTAT and PHASE. -/
theorem correlateBoth_eq (s : State) :
    s.correlateBoth = { s with
      ch1 := s.correlateBoth.ch1, ch2 := s.correlateBoth.ch2, cstat := s.correlateBoth.cstat
      unitA := s.correlateBoth.unitA, unitB := s.correlateBoth.unitB, phase := .idle } := by
  obtain ⟨u, f, d, c, e, -⟩ := corrUnit_cases s .a .c1
  obtain ⟨u', f', d', c', e', -⟩ := corrUnit_cases ((s.setUnit .a u).setResult .c1 f d c) .b .c2
  rw [State.correlateBoth, concludeSearch_eq, State.corrBoth, e, e']
  rfl

/-- CSTAT after `CORR2`: channel 1 is reported first (R119). -/
theorem cstat_correlateBoth (s : State) :
    s.correlateBoth.cstat =
      if ((s.correlate .c1).chan .c1).rstat ≠ 1#32 then (s.correlate .c1).cstat
      else if ((s.correlate .c2).chan .c2).rstat ≠ 1#32 then (s.correlate .c2).cstat
      else statusWord 1 0 := by
  have hc1 : s.corrBoth.chan .c1 = (s.corrUnit .a .c1).chan .c1 := chan_corrBoth s .c1
  have hc2 : s.corrBoth.chan .c2 = (s.corrUnit .a .c2).chan .c2 := chan_corrBoth s .c2
  rw [State.correlateBoth, cstat_concludeSearch_cons, cstat_concludeSearch_cons, cstat_concludeSearch_nil, hc1, hc2,
    chan_correlate, chan_correlate, cstat_correlate, cstat_correlate]
  by_cases h1 : ((s.corrUnit .a .c1).chan .c1).rstat = 1#32
  · by_cases h2 : ((s.corrUnit .a .c2).chan .c2).rstat = 1#32 <;> simp [h1, h2]
  · simp [h1]

/-- Settles O27: each channel is that of its own search, and the first failure is reported. -/
theorem dualSearchGivesBothResults : Obligations.DualSearchGivesBothResults := by
  intro s
  have hboth (k : Channel) (hk : k = .c1 ∨ k = .c2) : s.correlateBoth.chan k = (s.correlate k).chan k := by
    rw [chan_correlateBoth, if_pos hk, chan_correlate]
  exact ⟨_, _, _, exec_corr_field s .c1, exec_corr_field s .c2, exec_corr2 s, hboth .c1 (.inl rfl),
    hboth .c2 (.inr rfl), cstat_correlateBoth s, bitAt_correlateBoth s, correlateBoth_eq s⟩

/-- Settles O28: each search finds its channel's winner. -/
theorem dualSearchFindsBothWinners : Obligations.DualSearchFindsBothWinners := by
  intro s j1 j2 hp hl1 hl2 hw1 hw2
  have hc1 := chan_corrUnit_of_winner .a hp hl1 hw1
  have hc2 := chan_corrUnit_of_winner .a hp hl2 hw2
  refine ⟨_, exec_corr2 s, ?_, (chan_correlateBoth s .c1).trans hc1, (chan_correlateBoth s .c2).trans hc2,
    bitAt_correlateBoth s, correlateBoth_eq s⟩
  have hok1 : (s.corrBoth.chan .c1).rstat = 1#32 := congrArg ChannelRegs.rstat ((chan_corrBoth s .c1).trans hc1)
  have hok2 : (s.corrBoth.chan .c2).rstat = 1#32 := congrArg ChannelRegs.rstat ((chan_corrBoth s .c2).trans hc2)
  rw [State.correlateBoth, cstat_concludeSearch_cons, if_pos hok1, cstat_concludeSearch_cons, if_pos hok2,
    cstat_concludeSearch_nil]

/-! ### Either order -/

/-- `CORR j` keeps what a search on another channel reads. -/
theorem corrInput_correlate_ne (s : State) {j k : Channel} (h : k ≠ j) :
    (s.correlate j).corrInput k = s.corrInput k := by
  have hframe : (s.correlate j).corrInput k = (s.corrUnit .a j).corrInput k := by
    rw [State.correlate, concludeSearch_eq]
    cases k <;> rfl
  rw [hframe, corrInput_corrUnit_ne s .a h]

/-- Two searches on different channels, one after the other, leave in each what a search on it alone leaves. -/
theorem chan_correlate_correlate (s : State) {j k : Channel} (h : k ≠ j) (i : Channel) :
    ((s.correlate j).correlate k).chan i = if i = j ∨ i = k then (s.corrUnit .a i).chan i else s.chan i := by
  by_cases hik : i = k
  · subst hik
    rw [if_pos (.inr rfl), chan_correlate]
    exact chan_corrUnit_congr .a .a (corrInput_correlate_ne s h) (chan_correlate_ne s h)
  · rw [chan_correlate_ne _ hik]
    by_cases hij : i = j
    · subst hij
      rw [if_pos (.inl rfl), chan_correlate]
    · rw [chan_correlate_ne _ hij, if_neg (not_or.mpr ⟨hij, hik⟩)]

@[simp] theorem glen_correlate (s : State) (k : Channel) : (s.correlate k).glen = s.glen := by
  rw [correlate_eq]

@[simp] theorem tlen_correlate (s : State) (k : Channel) : (s.correlate k).tlen = s.tlen := by
  rw [correlate_eq]

/-- Searches on channels 1 and 2 in one order or the other leave what `CORR2` leaves, CSTAT apart. -/
theorem sameArchitecture_correlate_correlate (s : State) {j k : Channel} (h : k ≠ j)
    (hjk : ∀ i, (i = .c1 ∨ i = .c2) ↔ (i = j ∨ i = k)) :
    SameArchitecture s.correlateBoth { (s.correlate j).correlate k with cstat := s.correlateBoth.cstat } := by
  have hframe := correlateBoth_eq s
  refine ⟨fun i => ?_, ?_, ?_, rfl, fun sp a => ?_⟩
  · calc State.chan { (s.correlate j).correlate k with cstat := s.correlateBoth.cstat } i
        = ((s.correlate j).correlate k).chan i := by cases i <;> rfl
      _ = s.correlateBoth.chan i := by simp only [chan_correlate_correlate s h, chan_correlateBoth, hjk]
  · rw [hframe]
    simp
  · rw [hframe]
    simp
  · calc State.bitAt { (s.correlate j).correlate k with cstat := s.correlateBoth.cstat } sp a
        = ((s.correlate j).correlate k).bitAt sp a := rfl
      _ = s.correlateBoth.bitAt sp a := by simp

/-- Settles O29: both orders leave in channels 1 and 2 what each search alone leaves. -/
theorem dualSearchEqualsEitherOrder : Obligations.DualSearchEqualsEitherOrder := fun s =>
  ⟨_, _, _, _, _, exec_corr2 s, exec_corr_field s .c1, exec_corr_field _ .c2, exec_corr_field s .c2,
    exec_corr_field _ .c1, sameArchitecture_correlate_correlate s (by decide) fun _ => Iff.rfl,
    sameArchitecture_correlate_correlate s (by decide) fun _ => or_comm⟩

/-! ### Any interleaving -/

/-- One sequencer step of a unit: none where a check failed. -/
def unitStep (x : Option CorrInput) (u : SearchUnit) : SearchUnit := x.elim u (corrStep · u)

theorem dualStep_a (xa xb : Option CorrInput) (p : SearchUnit × SearchUnit) :
    dualStep xa xb p .a = (unitStep xa p.1, p.2) := by cases xa <;> rfl

theorem dualStep_b (xa xb : Option CorrInput) (p : SearchUnit × SearchUnit) :
    dualStep xa xb p .b = (p.1, unitStep xb p.2) := by cases xb <;> rfl

/-- The units share no register, so of a sequence of events each unit sees only how many are its own. -/
theorem foldl_dualStep (xa xb : Option CorrInput) (events : List UnitId) : ∀ p : SearchUnit × SearchUnit,
    events.foldl (dualStep xa xb) p =
      ((unitStep xa)^[events.count .a] p.1, (unitStep xb)^[events.count .b] p.2) := by
  induction events with
  | nil => exact fun _ => rfl
  | cons w events ih =>
    intro p
    cases w with
    | a => simp [ih, dualStep_a]
    | b => simp [ih, dualStep_b]

/-- A unit that has taken as many steps as its search has candidates has ended. -/
theorem unitStep_iterate_corrStepCount (x : Option CorrInput) (u : SearchUnit) :
    (unitStep x)^[corrStepCount x] (corrInitial x u) = corrFinal x u := by
  cases x <;> rfl

/-- The dual search: both units read the state the command starts from. -/
theorem corrBoth_eq (s : State) :
    s.corrBoth = (s.corrCommit .a .c1 (s.corrInput .c1) (corrFinal (s.corrInput .c1) s.unitA)).corrCommit .b .c2
      (s.corrInput .c2) (corrFinal (s.corrInput .c2) s.unitB) := by
  have hinput : (s.corrUnit .a .c1).corrInput .c2 = s.corrInput .c2 := corrInput_corrUnit_ne s .a (by decide)
  have hunit : (s.corrUnit .a .c1).unit .b = s.unitB := unit_corrUnit_ne s .a .c1 (by decide)
  calc s.corrBoth
      = (s.corrUnit .a .c1).corrCommit .b .c2 ((s.corrUnit .a .c1).corrInput .c2)
          (corrFinal ((s.corrUnit .a .c1).corrInput .c2) ((s.corrUnit .a .c1).unit .b)) := rfl
    _ = (s.corrUnit .a .c1).corrCommit .b .c2 (s.corrInput .c2) (corrFinal (s.corrInput .c2) s.unitB) := by
        rw [hinput, hunit]
    _ = _ := rfl

theorem corrInterleaved_eq {s : State} {events : List UnitId}
    (ha : events.count .a = corrStepCount (s.corrInput .c1)) (hb : events.count .b = corrStepCount (s.corrInput .c2)) :
    s.corrInterleaved events = s.corrBoth := by
  simp only [State.corrInterleaved, foldl_dualStep, ha, hb, unitStep_iterate_corrStepCount, corrBoth_eq]

/-- Settles O30: after all its steps each unit holds what its search alone leaves in it. -/
theorem everyInterleavingGivesTheDualSearch : Obligations.EveryInterleavingGivesTheDualSearch := by
  intro s events ha hb
  rw [corrInterleaved_eq ha hb]
  exact exec_corr2 s

end Sys2Proof.Machine
end

section
/-! SUPPORT. The scan of the consistency search stops at the first consistent candidate (43_consistency_search.md R142
to R145). -/

namespace Sys2Proof.Machine

/-! ### Its checks and what it reads -/

/-- The checks of the consistency search are those of R182. -/
theorem fselLegal_iff (s : State) : s.FselLegal ↔ SelectLegal s := by
  simp [State.FselLegal, State.DegreeLegal, State.MaskLegal, State.TargetLegal, State.degree, SelectLegal, LfsrLegal,
    ← BitVec.toNat_inj, Nat.one_le_iff_ne_zero, Nat.pos_iff_ne_zero, and_assoc]

/-- The registers and memories a legal `FSEL` uses (R140). -/
def State.selectInput (s : State) : FselInput where
  n := (s.chan .c3).deg.toNat
  run := runBuffer (s.chan .c3).deg.toNat (s.chan .c3).mask s.tlen.toNat
  len := s.tlen.toNat
  xs := s.readSeq (.seq .c1) s.tlen.toNat
  ys := s.readSeq (.seq .c2) s.tlen.toNat
  target := s.readSeq .tgt s.tlen.toNat

theorem n_selectInput (s : State) : s.selectInput.n = (s.chan .c3).deg.toNat := rfl

theorem fselInput_of_legal {s : State} (h : SelectLegal s) : s.fselInput = some s.selectInput :=
  if_pos ((fselLegal_iff s).mpr h)

theorem fselInput_of_not_legal {s : State} (h : ¬ SelectLegal s) : s.fselInput = none :=
  if_neg (mt (fselLegal_iff s).mp h)

theorem degree_bounds_of_selectLegal {s : State} (hp : s.params.Legal) (hl : SelectLegal s) :
    1 ≤ (s.chan .c3).deg.toNat ∧ (s.chan .c3).deg.toNat ≤ 32 := by
  obtain ⟨⟨hmin, hmax, -⟩, -⟩ := hl
  obtain ⟨⟨-, hdmax⟩, -⟩ := hp
  omega

/-! ### The match test -/

/-- Three sequences combine position by position. -/
theorem combineWith_map_range (g : Bool → Bool → Bool → Bool) (len : Nat) (x y z : Nat → Bool) :
    combineWith g ((List.range len).map x) ((List.range len).map y) ((List.range len).map z) =
      (List.range len).map fun i => g (x i) (y i) (z i) := by
  refine List.ext_getElem (by simp [length_combineWith]) fun i hi hi' => ?_
  have hlen : i < len := by simpa using hi'
  rw [getElem_combineWith _ _ _ _ _ hi (by simpa) (by simpa) (by simpa)]
  simp

/-- Candidate `j` is consistent with what SEQ[1], SEQ[2] and TGT hold (R142). -/
abbrev State.Selectable (s : State) (j : Nat) : Prop := Consistent s (s.bitAt (.seq .c1)) (s.bitAt (.seq .c2)) j

/-- The first candidate consistent with what SEQ[1], SEQ[2] and TGT hold (R143). -/
abbrev State.FirstSelectable (s : State) (j : Nat) : Prop :=
  FirstConsistent s (s.bitAt (.seq .c1)) (s.bitAt (.seq .c2)) j

theorem FirstConsistent.unique {s : State} {x y : Nat → Bool} {i j : Nat} (hi : FirstConsistent s x y i)
    (hj : FirstConsistent s x y j) : i = j := by
  obtain ⟨-, hci, hbelow⟩ := hi
  obtain ⟨-, hcj, hbelow'⟩ := hj
  exact le_antisymm (not_lt.mp fun h => hbelow j h hcj) (not_lt.mp fun h => hbelow' i h hci)

/-- The test of a sequencer step at a candidate of the run is R142's: the boolean combiner is the multiplexer (R101),
and the window holds the run bits. -/
theorem selectable_iff (s : State) {j : Nat} (hj : j < 2 ^ (s.chan .c3).deg.toNat) :
    s.Selectable j ↔ candidate s .c3 j ≠ 0#32 ∧ fselMatch s.selectInput j = true := by
  have hcombine :
      combineWith geffeBool s.selectInput.xs s.selectInput.ys (window s.selectInput.run j s.selectInput.len) =
      (List.range s.tlen.toNat).map fun i =>
        if runBit (s.chan .c3).deg.toNat (s.chan .c3).mask (j + i) then s.bitAt (.seq .c1) i
        else s.bitAt (.seq .c2) i := by
    simp only [State.selectInput, window_runBuffer _ _ hj, State.readSeq, combineWith_map_range,
      (combinerFormsAgree _ _ _).1, geffe]
  have htarget : s.selectInput.target = (List.range s.tlen.toNat).map (s.bitAt .tgt) := rfl
  rw [State.Selectable, Consistent, fselMatch, beq_iff_eq, hcombine, htarget, List.map_inj_left]
  simp only [List.mem_range]

/-! ### The scan -/

/-- What unit A holds when candidate `b` is the next to test: its index, which stops at 2^n - 1, and its state; and no
candidate before it was consistent. -/
structure ScansFrom (s : State) (b : Nat) (u : SearchUnit) : Prop where
  index : u.j.toNat = min b (2 ^ (s.chan .c3).deg.toNat - 1)
  cand : u.cand = candidate s .c3 b
  earlier : ∀ i, i < b → ¬ s.Selectable i

/-- The scan of a legal `FSEL`: where unit A ends, and whether a candidate matched (R145). -/
def State.selectScan (s : State) : SearchUnit × Bool :=
  fselScan s.selectInput (2 ^ (s.chan .c3).deg.toNat) { s.unitA with j := 0, cand := 1#32 }

/-- A complete scan leaves its registers in unit A, and its result. -/
theorem fselUnit_of_legal {s : State} (h : SelectLegal s) :
    s.fselUnit =
      if s.selectScan.2 then (s.setUnit .a s.selectScan.1).setResult .c3 s.selectScan.1.cand 0#32 .ok
      else (s.setUnit .a s.selectScan.1).failSearch .c3 .recoveryFailure := by
  rw [State.fselUnit, fselInput_of_legal h]
  rfl

theorem fselUnit_of_not_legal {s : State} (h : ¬ SelectLegal s) : s.fselUnit = s.failSearch .c3 .invalidParameter := by
  rw [State.fselUnit, fselInput_of_not_legal h]

theorem scansFrom_start (s : State) (u : SearchUnit) : ScansFrom s 0 { u with j := 0, cand := 1#32 } :=
  ⟨by simp, rfl, fun _ hi => absurd hi (Nat.not_lt_zero _)⟩

theorem ScansFrom.index_eq {s : State} {b : Nat} {u : SearchUnit} (h : ScansFrom s b u)
    (hb : b < 2 ^ (s.chan .c3).deg.toNat) : u.j.toNat = b := by
  have := h.index
  omega

section
variable {s : State} (hp : s.params.Legal) (hl : SelectLegal s)
include hp hl

/-- A sequencer step past an inconsistent candidate goes on to the next one. -/
theorem ScansFrom.advance {b : Nat} {u : SearchUnit} (h : ScansFrom s b u) (hb : b < 2 ^ (s.chan .c3).deg.toNat)
    (hno : ¬ s.Selectable b) : ScansFrom s (b + 1) (u.advance s.selectInput.n s.selectInput.run) := by
  obtain ⟨hn, hn'⟩ := degree_bounds_of_selectLegal hp hl
  have hindex := h.index_eq hb
  refine ⟨?_, ?_, fun i hi => ?_⟩
  · rw [n_selectInput, toNat_j_advance _ _ _ hn' (hindex ▸ hb), hindex]
  · rw [cand_advance, hindex, h.cand]
    exact successor_runBuffer hn hn' _ _ hb
  · obtain hlt | rfl := Nat.lt_succ_iff_lt_or_eq.mp hi
    · exact h.earlier i hlt
    · exact hno

/-- A scan stops at the first consistent candidate, or, where there is none, finds no match: by induction on the
candidates left. -/
theorem fselScan_cases : ∀ {left b : Nat} {u : SearchUnit}, b + left = 2 ^ (s.chan .c3).deg.toNat → ScansFrom s b u →
    (∃ j, s.FirstSelectable j ∧ (fselScan s.selectInput left u).2 = true ∧
      (fselScan s.selectInput left u).1.cand = candidate s .c3 j) ∨
    ((∀ j, j < 2 ^ (s.chan .c3).deg.toNat → ¬ s.Selectable j) ∧ (fselScan s.selectInput left u).2 = false)
  | 0, b, u, hb, h => .inr ⟨fun j hj => h.earlier j (by omega), rfl⟩
  | left + 1, b, u, hb, h => by
    have hlt : b < 2 ^ (s.chan .c3).deg.toNat := by omega
    have htest : s.Selectable b ↔ u.cand ≠ 0#32 ∧ fselMatch s.selectInput u.j.toNat = true := by
      rw [h.index_eq hlt, h.cand, selectable_iff s hlt]
    by_cases hb' : s.Selectable b
    · rw [fselScan, if_pos (htest.mp hb')]
      exact .inl ⟨b, ⟨hlt, hb', h.earlier⟩, rfl, h.cand⟩
    · rw [fselScan, if_neg (mt htest.mpr hb')]
      exact fselScan_cases (by omega) (h.advance hp hl hlt hb')

/-- What a legal consistency search leaves in channel 3: the first consistent candidate at distance 0, or a failure
where there is none. -/
theorem chan_fselUnit_cases :
    (∃ j, s.FirstSelectable j ∧ s.fselUnit.chan .c3 =
      { s.chan .c3 with rfill := candidate s .c3 j, rdist := 0#32, rstat := rstatWord .ok }) ∨
    ((∀ j, j < 2 ^ (s.chan .c3).deg.toNat → ¬ s.Selectable j) ∧ s.fselUnit.chan .c3 =
      { s.chan .c3 with rfill := 0#32, rdist := distNone, rstat := rstatWord .recoveryFailure }) := by
  rw [fselUnit_of_legal hl]
  obtain ⟨j, hj, hfound, hcand⟩ | ⟨hnone, hfound⟩ :=
    fselScan_cases hp hl (Nat.zero_add _) (scansFrom_start s s.unitA)
  · rw [State.selectScan, if_pos hfound, hcand, chan_setResult_same, chan_setUnit]
    exact .inl ⟨j, hj, rfl⟩
  · rw [State.selectScan, if_neg (Bool.eq_false_iff.mp hfound), chan_failSearch_same, chan_setUnit]
    exact .inr ⟨hnone, rfl⟩

theorem chan_fselUnit_of_firstSelectable {j : Nat} (hj : s.FirstSelectable j) :
    s.fselUnit.chan .c3 =
      { s.chan .c3 with rfill := candidate s .c3 j, rdist := 0#32, rstat := rstatWord .ok } := by
  obtain ⟨i, hi, hchan⟩ | ⟨hnone, -⟩ := chan_fselUnit_cases hp hl
  · rw [hchan, hi.unique hj]
  · obtain ⟨hlt, hmatch, -⟩ := hj
    exact absurd hmatch (hnone j hlt)

theorem chan_fselUnit_of_none_selectable (h : ∀ j, j < 2 ^ (s.chan .c3).deg.toNat → ¬ s.Selectable j) :
    s.fselUnit.chan .c3 =
      { s.chan .c3 with rfill := 0#32, rdist := distNone, rstat := rstatWord .recoveryFailure } := by
  obtain ⟨j, ⟨hlt, hmatch, -⟩, -⟩ | ⟨-, hchan⟩ := chan_fselUnit_cases hp hl
  · exact absurd hmatch (h j hlt)
  · exact hchan

end

end Sys2Proof.Machine
end

section
/-! SUPPORT. What FSEL does (43_consistency_search.md R145, R147; 60_exceptions.md R182, R185, R186). -/

namespace Sys2Proof.Machine

/-! ### The command -/

/-- `FSEL`. -/
def State.select (s : State) : State := s.fselUnit.concludeSearch [.c3]

theorem exec_fsel (s : State) : exec .fsel s = .next s.select := rfl

@[simp] theorem chan_select (s : State) (k : Channel) : s.select.chan k = s.fselUnit.chan k :=
  chan_concludeSearch _ _ _

@[simp] theorem bitAt_select (s : State) (sp : Space) (a : Nat) : s.select.bitAt sp a = s.bitAt sp a := by
  rw [State.select, concludeSearch_eq]
  exact bitAt_fselUnit s sp a

/-- `FSEL` changes nothing but channel 3, unit A, CSTAT and PHASE. -/
theorem select_eq (s : State) :
    s.select = { s with
      ch3 := s.select.ch3, cstat := s.select.cstat, unitA := s.select.unitA, phase := .idle } := by
  obtain ⟨u, f, d, c, e, -⟩ := fselUnit_cases s
  rw [State.select, concludeSearch_eq, e]
  rfl

@[simp] theorem tlen_select (s : State) : s.select.tlen = s.tlen := by
  rw [select_eq]

theorem cstat_select_of_ok {s : State} (h : (s.fselUnit.chan .c3).rstat = rstatWord .ok) :
    s.select.cstat = statusWord 1 0 :=
  (cstat_concludeSearch_cons s.fselUnit .c3 []).trans (if_pos h)

theorem cstat_select_of_failed {s : State} {c : Code} (h : (s.fselUnit.chan .c3).rstat = rstatWord c) (hc : c ≠ .ok) :
    s.select.cstat = statusWord c.bits.toNat 3 :=
  cstat_concludeSearch_of_failed [] h hc

/-- Settles O31: the scan stops at the first consistent candidate, and finds none exactly when there is none. -/
theorem selectFindsTheFirstConsistent : Obligations.SelectFindsTheFirstConsistent := by
  intro s hp hl
  refine ⟨_, exec_fsel s, fun j hj => ?_, fun hnone => ?_, bitAt_select s, select_eq s⟩
  · have hchan := chan_fselUnit_of_firstSelectable hp hl hj
    exact ⟨(chan_select s .c3).trans hchan, cstat_select_of_ok (congrArg ChannelRegs.rstat hchan)⟩
  · have hchan := chan_fselUnit_of_none_selectable hp hl hnone
    exact ⟨(chan_select s .c3).trans hchan,
      cstat_select_of_failed (congrArg ChannelRegs.rstat hchan) (by decide)⟩

/-- A rejected `FSEL` leaves unit A alone too. -/
theorem select_of_not_legal {s : State} (h : ¬ SelectLegal s) :
    s.select = (s.failSearch .c3 .invalidParameter).concludeSearch [.c3] := by
  rw [State.select, fselUnit_of_not_legal h]

/-- Settles O32: a search whose checks fail only clears channel 3's result. -/
theorem selectRejectsIllegalParameters : Obligations.SelectRejectsIllegalParameters := by
  intro s h
  have hrstat : ((s.failSearch .c3 .invalidParameter).chan .c3).rstat = rstatWord .invalidParameter := by simp
  rw [exec_fsel, select_of_not_legal h, concludeSearch_eq, cstat_concludeSearch_of_failed [] hrstat (by decide)]
  rfl

/-! ### The state it recovers -/

theorem selectLegal_of_rstat_ok {s : State} (h : (s.select.chan .c3).rstat = 1#32) : SelectLegal s := by
  by_contra hl
  rw [chan_select, fselUnit_of_not_legal hl, chan_failSearch_same] at h
  have hfailed : rstatWord .invalidParameter ≠ 1#32 := by decide
  exact hfailed h

/-- An `FSEL` that ends OK has returned the first consistent candidate. -/
theorem chan_select_of_rstat_ok {s : State} (hp : s.params.Legal) (h : (s.select.chan .c3).rstat = 1#32) :
    ∃ j, s.FirstSelectable j ∧ s.select.chan .c3 =
      { s.chan .c3 with rfill := candidate s .c3 j, rdist := 0#32, rstat := rstatWord .ok } := by
  have hl := selectLegal_of_rstat_ok h
  rw [chan_select] at h ⊢
  obtain hfound | ⟨-, hchan⟩ := chan_fselUnit_cases hp hl
  · exact hfound
  · rw [hchan] at h
    have hfailed : rstatWord .recoveryFailure ≠ 1#32 := by decide
    exact absurd h hfailed

/-- Element `a` of the sequence from candidate `j`'s state is the run bit `j + a`: "the window is a function of the
state" (42_correlation_search.md R120). -/
theorem getElem?_lfsrGen_candidate (s : State) (k : Channel) (j : Nat) {len a : Nat} (ha : a < len) :
    (lfsrGen (s.chan k).deg.toNat (s.chan k).mask (candidate s k j) len).1[a]? =
      some (runBit (s.chan k).deg.toNat (s.chan k).mask (j + a)) :=
  getElem?_lfsrGen_runState _ _ _ _ _ ha

/-- `COMB` over sequences that hold X, Y and the window of a consistent candidate writes the target to OUT. -/
theorem exec_comb_of_consistent {s u : State} {x y : Nat → Bool} {j : Nat} (hj : Consistent s x y j)
    (hlen : u.glen.toNat ≤ u.params.lmax) (hglen : u.glen = s.tlen)
    (hseq : ∀ a, a < s.tlen.toNat → u.bitAt (.seq .c1) a = x a ∧ u.bitAt (.seq .c2) a = y a ∧
      u.bitAt (.seq .c3) a = runBit (s.chan .c3).deg.toNat (s.chan .c3).mask (j + a)) :
    ∃ v, exec .comb u = .next v ∧ v.cstat = statusWord 1 0 ∧
      ∀ a, a < s.tlen.toNat → v.bitAt .out a = s.bitAt .tgt a := by
  obtain ⟨v, hv, hout, hframe⟩ := (combineWritesOut u).1 hlen
  refine ⟨v, hv, congrArg State.cstat hframe, fun a ha => ?_⟩
  obtain ⟨-, htarget⟩ := hj
  obtain ⟨hx, hy, hz⟩ := hseq a ha
  rw [hout, if_pos ⟨rfl, hglen ▸ ha⟩, hx, hy, hz, htarget a ha]

/-- Settles O33: the recovered state is the first consistent candidate's, whose sequence is its window. -/
theorem selectedStateRegeneratesTheTarget : Obligations.SelectedStateRegeneratesTheTarget := by
  intro s t hp ht hok
  obtain rfl : s.select = t := by injection (exec_fsel s).symm.trans ht
  obtain ⟨j, hj, hchan⟩ := chan_select_of_rstat_ok hp hok
  obtain ⟨-, -, hcapacity⟩ := selectLegal_of_rstat_ok hok
  have hch3 : s.select.ch3 = _ := hchan
  simp only [hch3, tlen_select, bitAt_select]
  have hwindow (a : Nat) (ha : a < s.tlen.toNat) := getElem?_lfsrGen_candidate s .c3 j ha
  refine ⟨⟨j, hj, rfl, hwindow⟩, fun u hparams hglen hseq => ?_⟩
  obtain ⟨-, hmatch, -⟩ := hj
  refine exec_comb_of_consistent hmatch (by rw [hglen, hparams]; exact hcapacity) hglen fun a ha => ?_
  obtain ⟨hx, hy, hz⟩ := hseq a ha
  exact ⟨hx, hy, Option.some_injective _ (hz.symm.trans (hwindow a ha))⟩

end Sys2Proof.Machine
end

section
/-! SUPPORT. The checks of RECOVER come before its stages (44_recover_pipeline.md R161, R162). -/

namespace Sys2Proof.Machine

/-! ### The checks read what no stage writes -/

theorem sameOperands_recover_refl (s : State) : SameOperands .recover s s :=
  ⟨rfl, rfl, fun _ => ⟨rfl, rfl⟩, fun _ _ => ⟨rfl, rfl⟩, fun _ _ => rfl⟩

theorem KeepsInputs.recoverLegal_eq {s t : State} (h : KeepsInputs s t) (k : Channel) :
    t.recoverLegal k = s.recoverLegal k :=
  (((keepsInputs_refl s).sameOperands h (sameOperands_recover_refl s)).recoverLegal_eq k).symm

/-- The checks of `RECOVER` are those of R182. -/
theorem recoverLegal_iff (s : State) : ∀ k, s.recoverLegal k = true ↔ RecoverLegal s k
  | .c1 => decide_eq_true_iff.trans (corrLegal_iff s .c1)
  | .c2 => decide_eq_true_iff.trans (corrLegal_iff s .c2)
  | .c3 => decide_eq_true_iff.trans (fselLegal_iff s)

/-! ### Clearing the results -/

/-- The state in which `RECOVER` tests the parameters: every result cleared (R161). -/
def State.cleared (s : State) : State := (s.setPhase .check).clearResults

theorem keepsInputs_cleared (s : State) : KeepsInputs s s.cleared := (keepsInputs_setPhase s .check).clearResults

theorem recoverLegal_cleared_iff (s : State) (k : Channel) : s.cleared.recoverLegal k = true ↔ RecoverLegal s k := by
  rw [(keepsInputs_cleared s).recoverLegal_eq, recoverLegal_iff]

theorem chan_cleared (s : State) (k : Channel) :
    s.cleared.chan k = { s.chan k with rfill := 0#32, rdist := distNone, rstat := rstatWord .none } := by
  cases k <;> rfl

/-! ### Marking the channels that fail -/

theorem recoverLegal_markBad (s : State) (k j : Channel) : (s.markBad k).recoverLegal j = s.recoverLegal j :=
  ((keepsInputs_refl s).markBad k).recoverLegal_eq j

theorem chan_markBad_same (s : State) (k : Channel) :
    (s.markBad k).chan k =
      if s.recoverLegal k then s.chan k
      else { s.chan k with rfill := 0#32, rdist := distNone, rstat := rstatWord .invalidParameter } := by
  unfold State.markBad
  split
  · rfl
  · exact chan_failSearch_same s k _

theorem chan_markBad_ne (s : State) {j k : Channel} (h : j ≠ k) : (s.markBad k).chan j = s.chan j := by
  unfold State.markBad
  split
  · rfl
  · exact chan_failSearch_ne s k j _ h

theorem markBad_eq (s : State) (k : Channel) :
    s.markBad k = { s with
      ch1 := (s.markBad k).ch1, ch2 := (s.markBad k).ch2, ch3 := (s.markBad k).ch3 } := by
  unfold State.markBad
  split
  · rfl
  · cases k <;> rfl

/-- The state `RECOVER` leaves, CSTAT and PHASE apart, when a check fails: INVALID_PARAMETER in every channel that fails
its checks (R162). -/
def State.marked (s : State) : State := ((s.cleared.markBad .c1).markBad .c2).markBad .c3

theorem chan_marked (s : State) (k : Channel) :
    s.marked.chan k =
      if s.cleared.recoverLegal k then s.cleared.chan k
      else { s.cleared.chan k with rfill := 0#32, rdist := distNone, rstat := rstatWord .invalidParameter } := by
  unfold State.marked
  cases k with
  | c1 => rw [chan_markBad_ne _ (by decide), chan_markBad_ne _ (by decide), chan_markBad_same]
  | c2 =>
    rw [chan_markBad_ne _ (by decide), chan_markBad_same, recoverLegal_markBad, chan_markBad_ne _ (by decide)]
  | c3 =>
    rw [chan_markBad_same, recoverLegal_markBad, recoverLegal_markBad, chan_markBad_ne _ (by decide),
      chan_markBad_ne _ (by decide)]

theorem chan_marked_of_legal {s : State} {k : Channel} (h : RecoverLegal s k) :
    s.marked.chan k = { s.chan k with rfill := 0#32, rdist := distNone, rstat := rstatWord .none } := by
  rw [chan_marked, if_pos ((recoverLegal_cleared_iff s k).mpr h), chan_cleared]

theorem chan_marked_of_not_legal {s : State} {k : Channel} (h : ¬ RecoverLegal s k) :
    s.marked.chan k = { s.chan k with rfill := 0#32, rdist := distNone, rstat := rstatWord .invalidParameter } := by
  rw [chan_marked, if_neg (mt (recoverLegal_cleared_iff s k).mp h), chan_cleared]

/-- Marking leaves alone everything but the channels. -/
theorem marked_eq (s : State) :
    s.marked = { s with ch1 := s.marked.ch1, ch2 := s.marked.ch2, ch3 := s.marked.ch3, phase := .check } := by
  rw [State.marked, markBad_eq _ .c3, markBad_eq _ .c2, markBad_eq _ .c1]
  rfl

/-! ### The two outcomes of the checks -/

theorem exec_recover_of_legal {s : State} (h : ∀ k, RecoverLegal s k) :
    exec .recover s = .next s.cleared.recoverStages := by
  have hnone : [Channel.c1, .c2, .c3].find? (fun k => !s.cleared.recoverLegal k) = none :=
    List.find?_eq_none.mpr fun k _ => by simp [(recoverLegal_cleared_iff s k).mpr (h k)]
  have harm : exec .recover s = execRecover s := rfl
  unfold State.cleared at hnone
  simp only [harm, execRecover, hnone]
  rfl

/-- The first channel in numerical order that fails its checks is the one reported. -/
theorem find_illegal {s : State} {k : Channel} (hk : s.recoverLegal k = false)
    (hlow : ∀ j, channelNumber j < channelNumber k → s.recoverLegal j = true) :
    [Channel.c1, .c2, .c3].find? (fun j => !s.recoverLegal j) = some k := by
  cases k with
  | c1 => simp [hk]
  | c2 => simp [hk, hlow .c1 (by decide)]
  | c3 => simp [hk, hlow .c1 (by decide), hlow .c2 (by decide)]

theorem exec_recover_of_lowest_illegal {s : State} {k : Channel} (hk : ¬ RecoverLegal s k)
    (hlow : ∀ j, channelNumber j < channelNumber k → RecoverLegal s j) :
    exec .recover s = .next (s.marked.raise .invalidParameter k.field) := by
  have hfind : [Channel.c1, .c2, .c3].find? (fun j => !s.cleared.recoverLegal j) = some k :=
    find_illegal (Bool.eq_false_iff.mpr (mt (recoverLegal_cleared_iff s k).mp hk)) fun j hj =>
      (recoverLegal_cleared_iff s j).mpr (hlow j hj)
  have harm : exec .recover s = execRecover s := rfl
  unfold State.cleared at hfind
  simp only [harm, execRecover, hfind]
  rfl

/-- Settles O34: every channel is marked or only cleared, and the first that fails is blamed. -/
theorem recoverChecksAllChannelsFirst : Obligations.RecoverChecksAllChannelsFirst := by
  intro s k hk hlow
  refine ⟨_, exec_recover_of_lowest_illegal hk hlow, fun j => ?_, fun j => ⟨fun hj => ?_, fun hj => ?_⟩, ?_⟩
  · by_cases hj : RecoverLegal s j
    · rw [chan_raise, chan_marked_of_legal hj]
    · rw [chan_raise, chan_marked_of_not_legal hj]
  · rw [chan_raise, chan_marked_of_legal hj]
    rfl
  · rw [chan_raise, chan_marked_of_not_legal hj]
    rfl
  · rw [raise_field, marked_eq]
    rfl

end Sys2Proof.Machine
end

section
/-! SUPPORT. RECOVER's stages, one equation per outcome. The searches do not read the cleared results and write them
again, so the stages are those of the state the command was issued in (44_recover_pipeline.md R160, R161, R163). -/

namespace Sys2Proof.Machine

/-! ### A search does not see the results, nor PHASE -/

theorem KeepsInputs.corrInput_eq {s t : State} (h : KeepsInputs s t) (k : Channel) : t.corrInput k = s.corrInput k := by
  obtain ⟨⟨-, hlen, hconfig⟩, hparams, htarget⟩ := h
  obtain ⟨hdeg, hmask, hnreq, hthresh⟩ := hconfig k
  exact corrInput_congr hparams hdeg hmask hnreq hthresh hlen htarget

/-- Writes to two channels can be exchanged. -/
theorem setChan_comm (s : State) {j k : Channel} (h : j ≠ k) (c d : ChannelRegs) :
    (s.setChan j c).setChan k d = (s.setChan k d).setChan j c := by
  revert h
  cases j <;> cases k <;> simp [State.setChan]

theorem setMem_setChan (s : State) (k : Channel) (c : ChannelRegs) (sp : Space) (m : BitMemory) :
    (s.setChan k c).setMem sp m = (s.setMem sp m).setChan k c := by
  cases k <;> rcases sp with _ | (_ | _ | _) | _ <;> rfl

theorem setResult_failSearch_same (s : State) (k : Channel) (e : Code) (f d : Word) (c : Code) :
    (s.failSearch k e).setResult k f d c = s.setResult k f d c := by
  cases k <;> rfl

theorem setResult_failSearch_ne (s : State) {j k : Channel} (h : j ≠ k) (e : Code) (f d : Word) (c : Code) :
    (s.failSearch j e).setResult k f d c = (s.setResult k f d c).failSearch j e := by
  simp only [State.failSearch, State.setResult, chan_setChan_ne _ _ _ _ h, chan_setChan_ne _ _ _ _ h.symm,
    setChan_comm _ h]

theorem setResult_setPhase (s : State) (p : Phase) (k : Channel) (f d : Word) (c : Code) :
    (s.setPhase p).setResult k f d c = (s.setResult k f d c).setPhase p := by
  cases k <;> rfl

theorem setUnit_failSearch (s : State) (j : Channel) (e : Code) (w : UnitId) (u : SearchUnit) :
    (s.failSearch j e).setUnit w u = (s.setUnit w u).failSearch j e := by
  cases j <;> cases w <;> rfl

theorem setUnit_setPhase (s : State) (p : Phase) (w : UnitId) (u : SearchUnit) :
    (s.setPhase p).setUnit w u = (s.setUnit w u).setPhase p := by
  cases w <;> rfl

/-- What a correlation search commits is fixed by its input and its unit: the unit's registers, where the checks passed,
and a result. -/
theorem corrCommit_writes (w : UnitId) (k : Channel) (x : Option CorrInput) (u : SearchUnit) :
    ∃ f d c, (∀ s : State, s.corrCommit w k x u = s.setResult k f d c) ∨
      (∀ s : State, s.corrCommit w k x u = (s.setUnit w u).setResult k f d c) := by
  cases x with
  | none => exact ⟨_, _, _, .inl fun _ => rfl⟩
  | some x =>
    by_cases h : u.bestr = distNone
    · exact ⟨_, _, _, .inr fun _ => corrResult_of_eq_none _ _ h⟩
    · exact ⟨_, _, _, .inr fun _ => corrResult_of_ne_none _ _ h⟩

theorem corrUnit_failSearch_same (s : State) (w : UnitId) (k : Channel) (e : Code) :
    (s.failSearch k e).corrUnit w k = s.corrUnit w k := by
  unfold State.corrUnit
  rw [(keepsInputs_failSearch s k e).corrInput_eq, unit_failSearch]
  obtain ⟨f, d, c, h | h⟩ := corrCommit_writes w k (s.corrInput k) (corrFinal (s.corrInput k) (s.unit w))
  · rw [h, h, setResult_failSearch_same]
  · rw [h, h, setUnit_failSearch, setResult_failSearch_same]

theorem corrUnit_failSearch_ne (s : State) (w : UnitId) {j k : Channel} (hjk : j ≠ k) (e : Code) :
    (s.failSearch j e).corrUnit w k = (s.corrUnit w k).failSearch j e := by
  unfold State.corrUnit
  rw [(keepsInputs_failSearch s j e).corrInput_eq, unit_failSearch]
  obtain ⟨f, d, c, h | h⟩ := corrCommit_writes w k (s.corrInput k) (corrFinal (s.corrInput k) (s.unit w))
  · rw [h, h, setResult_failSearch_ne _ hjk]
  · rw [h, h, setUnit_failSearch, setResult_failSearch_ne _ hjk]

theorem corrUnit_setPhase (s : State) (w : UnitId) (k : Channel) (p : Phase) :
    (s.setPhase p).corrUnit w k = (s.corrUnit w k).setPhase p := by
  unfold State.corrUnit
  rw [(keepsInputs_setPhase s p).corrInput_eq, unit_setPhase]
  obtain ⟨f, d, c, h | h⟩ := corrCommit_writes w k (s.corrInput k) (corrFinal (s.corrInput k) (s.unit w))
  · rw [h, h, setResult_setPhase]
  · rw [h, h, setUnit_setPhase, setResult_setPhase]

theorem fselUnit_failSearch (s : State) (e : Code) : (s.failSearch .c3 e).fselUnit = s.fselUnit := by
  have hinput : (s.failSearch .c3 e).fselInput = s.fselInput :=
    fselInput_congr (by simp) (by simp) (by simp) (by simp) fun sp a _ => bitAt_congr (by simp) (by simp) a
  unfold State.fselUnit
  rw [hinput]
  cases s.fselInput with
  | none => rfl
  | some x => rfl

/-! ### Stages 1 to 3 after the clearing -/

/-- Stage 1 leaves what the dual search leaves, with channel 3's result cleared. -/
theorem recoverSearch_cleared (s : State) :
    s.cleared.recoverSearch = (s.corrBoth.failSearch .c3 .none).setPhase .scan12 := by
  have hstart : s.cleared.setPhase .scan12 =
      (((s.failSearch .c1 .none).failSearch .c2 .none).failSearch .c3 .none).setPhase .scan12 := rfl
  rw [State.recoverSearch, hstart, State.corrBoth, corrUnit_setPhase, corrUnit_failSearch_ne _ _ (by decide),
    corrUnit_failSearch_ne _ _ (by decide), corrUnit_failSearch_same, corrUnit_setPhase,
    corrUnit_failSearch_ne _ _ (by decide), corrUnit_failSearch_same]
  rfl

/-- The state after stage 2, channel 3's result apart. -/
def State.regenerated (s : State) : State := s.corrBoth.recoverRegenerate

/-- A generation on one channel neither reads nor writes another. -/
theorem generateInto_setChan_ne (s : State) {j k : Channel} (h : j ≠ k) (c : ChannelRegs) (f : Word) (len : Nat) :
    (s.setChan j c).generateInto k f len = (s.generateInto k f len).setChan j c := by
  simp only [State.generateInto, State.writeSeq, State.setFill, State.degree, chan_setMem,
    chan_setChan_ne _ _ _ _ h.symm, mem_setChan, setMem_setChan, setChan_comm _ h]

theorem generateInto_failSearch_ne (s : State) {j k : Channel} (h : j ≠ k) (e : Code) (f : Word) (len : Nat) :
    (s.failSearch j e).generateInto k f len = (s.generateInto k f len).failSearch j e := by
  simp only [State.failSearch, State.setResult, generateInto_setChan_ne _ h, chan_generateInto_ne _ _ _ _ _ h]

/-- Stage 2 regenerates each of channels 1 and 2 from its own recovered fill. -/
theorem recoverRegenerate_eq (s : State) :
    s.recoverRegenerate =
      ((s.setPhase .regen).generateInto .c1 (s.chan .c1).rfill s.tlen.toNat).generateInto .c2 (s.chan .c2).rfill
        s.tlen.toNat := by
  simp [State.recoverRegenerate]

/-- Stage 2 neither reads nor writes channel 3's result. -/
theorem recoverRegenerate_failSearch (s : State) (e : Code) :
    (s.failSearch .c3 e).recoverRegenerate = s.recoverRegenerate.failSearch .c3 e := by
  have hphase : (s.failSearch .c3 e).setPhase .regen = (s.setPhase .regen).failSearch .c3 e := rfl
  rw [recoverRegenerate_eq, recoverRegenerate_eq, hphase, generateInto_failSearch_ne _ (by decide),
    generateInto_failSearch_ne _ (by decide), chan_failSearch_ne _ _ _ _ (by decide),
    chan_failSearch_ne _ _ _ _ (by decide), tlen_failSearch]

theorem recoverSelect_cleared (s : State) :
    s.cleared.recoverSearch.recoverRegenerate.recoverSelect = s.regenerated.recoverSelect := by
  have hphase (t : State) : (t.setPhase .scan12).recoverRegenerate = t.recoverRegenerate := rfl
  have hphase' (t : State) : (t.failSearch .c3 .none).setPhase .scan3 = (t.setPhase .scan3).failSearch .c3 .none := rfl
  rw [recoverSearch_cleared, hphase, recoverRegenerate_failSearch, State.recoverSelect, hphase', fselUnit_failSearch]
  rfl

/-! ### Where the command stops -/

theorem firstFailure_eq_none_iff (s : State) (ks : List Channel) :
    s.firstFailure ks = none ↔ ∀ k ∈ ks, (s.chan k).rstat = 1#32 := by
  have hok : rstatWord .ok = 1#32 := rfl
  simp [State.firstFailure, State.searchOk, hok]

/-- Both searches of stage 1 end OK. -/
def State.SearchesOk (s : State) : Prop := (s.corrBoth.chan .c1).rstat = 1#32 ∧ (s.corrBoth.chan .c2).rstat = 1#32

/-- What the command leaves when it stops after stage 1. -/
def State.stoppedAfterSearch (s : State) : State :=
  ((s.corrBoth.failSearch .c3 .none).setPhase .scan12).concludeSearch [.c1, .c2]

theorem searchesOk_iff (s : State) :
    s.SearchesOk ↔ s.correlateBoth.ch1.rstat = 1#32 ∧ s.correlateBoth.ch2.rstat = 1#32 := by
  have hchan (k : Channel) : s.correlateBoth.chan k = s.corrBoth.chan k := chan_concludeSearch _ _ _
  rw [State.SearchesOk, ← hchan, ← hchan]
  rfl

theorem firstFailure_recoverSearch (s : State) :
    s.cleared.recoverSearch.firstFailure [.c1, .c2] = none ↔ s.SearchesOk := by
  rw [recoverSearch_cleared, firstFailure_eq_none_iff]
  simp [State.SearchesOk]

section
variable {s : State} (hl : ∀ k, RecoverLegal s k)
include hl

/-- The command stops after a stage 1 that failed (R163). -/
theorem exec_recover_of_search_failed (h : ¬ s.SearchesOk) : exec .recover s = .next s.stoppedAfterSearch := by
  obtain ⟨k, hk⟩ := Option.ne_none_iff_exists'.mp (mt (firstFailure_recoverSearch s).mp h)
  rw [exec_recover_of_legal hl, State.stoppedAfterSearch, ← recoverSearch_cleared]
  simp only [State.recoverStages, State.concludeSearch, hk]

/-- The command stops after a stage 3 that failed (R163). -/
theorem exec_recover_of_select_failed (h : s.SearchesOk)
    (h3 : (s.regenerated.recoverSelect.chan .c3).rstat ≠ 1#32) :
    exec .recover s = .next (s.regenerated.recoverSelect.concludeSearch [.c3]) := by
  have hfailed : s.regenerated.recoverSelect.firstFailure [.c3] ≠ none := fun hnone =>
    h3 ((firstFailure_eq_none_iff _ _).mp hnone .c3 (by simp))
  obtain ⟨k, hk⟩ := Option.ne_none_iff_exists'.mp hfailed
  rw [exec_recover_of_legal hl]
  simp only [State.recoverStages, (firstFailure_recoverSearch s).mpr h, recoverSelect_cleared, State.concludeSearch, hk]

/-- Otherwise the command runs to its end. -/
theorem exec_recover_of_select_ok (h : s.SearchesOk) (h3 : (s.regenerated.recoverSelect.chan .c3).rstat = 1#32) :
    exec .recover s = .next s.regenerated.recoverSelect.recoverVerify.concludeOk := by
  have hnone : s.regenerated.recoverSelect.firstFailure [.c3] = none :=
    (firstFailure_eq_none_iff _ _).mpr (by simpa using h3)
  rw [exec_recover_of_legal hl]
  simp only [State.recoverStages, (firstFailure_recoverSearch s).mpr h, recoverSelect_cleared, hnone]

end

/-! ### What the stages leave alone -/

theorem corrBoth_frame (s : State) :
    s.corrBoth = { s with
      ch1 := s.corrBoth.ch1, ch2 := s.corrBoth.ch2, unitA := s.corrBoth.unitA, unitB := s.corrBoth.unitB } := by
  obtain ⟨u, f, d, c, e, -⟩ := corrUnit_cases s .a .c1
  obtain ⟨u', f', d', c', e', -⟩ := corrUnit_cases ((s.setUnit .a u).setResult .c1 f d c) .b .c2
  rw [State.corrBoth, e, e']
  rfl

theorem recoverRegenerate_frame (s : State) :
    s.recoverRegenerate = { s with
      ch1 := s.recoverRegenerate.ch1, ch2 := s.recoverRegenerate.ch2
      seq1 := s.recoverRegenerate.seq1, seq2 := s.recoverRegenerate.seq2, phase := .regen } := rfl

theorem recoverSelect_frame (s : State) :
    s.recoverSelect = { s with
      ch3 := s.recoverSelect.ch3, unitA := s.recoverSelect.unitA, phase := .scan3 } := by
  obtain ⟨u, f, d, c, e, -⟩ := fselUnit_cases (s.setPhase .scan3)
  rw [State.recoverSelect, e]
  rfl

theorem recoverVerify_frame (s : State) :
    s.recoverVerify = { s with
      ch3 := s.recoverVerify.ch3, seq3 := s.recoverVerify.seq3, out := s.recoverVerify.out, phase := .verify } := rfl

/-! ### The stop after stage 1 -/

theorem chan_stoppedAfterSearch_ne (s : State) {k : Channel} (h : k ≠ .c3) :
    s.stoppedAfterSearch.chan k = s.correlateBoth.chan k := by
  simp [State.stoppedAfterSearch, State.correlateBoth, h]

theorem chan_stoppedAfterSearch_c3 (s : State) :
    s.stoppedAfterSearch.chan .c3 =
      { s.chan .c3 with rfill := 0#32, rdist := distNone, rstat := rstatWord .none } := by
  simp [State.stoppedAfterSearch, chan_corrBoth]

theorem cstat_stoppedAfterSearch (s : State) : s.stoppedAfterSearch.cstat = s.correlateBoth.cstat :=
  cstat_concludeSearch_eq (by simp)

@[simp] theorem bitAt_concludeSearch (s : State) (ks : List Channel) (sp : Space) (a : Nat) :
    (s.concludeSearch ks).bitAt sp a = s.bitAt sp a := by
  rw [concludeSearch_eq]
  rfl

@[simp] theorem bitAt_failSearch (s : State) (k : Channel) (c : Code) (sp : Space) (a : Nat) :
    (s.failSearch k c).bitAt sp a = s.bitAt sp a := bitAt_congr (by simp) (by simp) a

theorem bitAt_stoppedAfterSearch (s : State) (sp : Space) (a : Nat) :
    s.stoppedAfterSearch.bitAt sp a = s.bitAt sp a := by
  simp [State.stoppedAfterSearch]

theorem fill_correlateBoth (s : State) (k : Channel) : (s.correlateBoth.chan k).fill = (s.chan k).fill := by
  simp [State.correlateBoth, State.corrBoth]

theorem stoppedAfterSearch_eq (s : State) :
    s.stoppedAfterSearch = { s with
      ch1 := s.stoppedAfterSearch.ch1, ch2 := s.stoppedAfterSearch.ch2, ch3 := s.stoppedAfterSearch.ch3
      cstat := s.stoppedAfterSearch.cstat, unitA := s.stoppedAfterSearch.unitA, unitB := s.stoppedAfterSearch.unitB
      phase := .idle } := by
  rw [State.stoppedAfterSearch, concludeSearch_eq, corrBoth_frame]
  rfl

theorem exists_exec_recover (s : State) : ∃ t, exec .recover s = .next t := by
  obtain ⟨t, ht, -⟩ := exec_keepsInputs .recover s
  exact ⟨t, ht⟩

/-- Settles O35: stage 1 leaves in channels 1 and 2 what `CORR2` leaves there, and CSTAT is a function of their status
registers. -/
theorem recoverStopsAfterFailedCorrelation : Obligations.RecoverStopsAfterFailedCorrelation := by
  intro s hl
  obtain ⟨t, ht⟩ := exists_exec_recover s
  refine ⟨_, t, exec_corr2 s, ht, fun hfailed => ?_⟩
  have hnot : ¬ s.SearchesOk := mt (searchesOk_iff s).mp (not_and_or.mpr hfailed)
  obtain rfl : s.stoppedAfterSearch = t := by injection (exec_recover_of_search_failed hl hnot).symm.trans ht
  have hc1 : s.stoppedAfterSearch.ch1 = s.correlateBoth.ch1 := chan_stoppedAfterSearch_ne s (k := .c1) (by decide)
  have hc2 : s.stoppedAfterSearch.ch2 = s.correlateBoth.ch2 := chan_stoppedAfterSearch_ne s (k := .c2) (by decide)
  exact ⟨hc1, hc2, chan_stoppedAfterSearch_c3 s, cstat_stoppedAfterSearch s,
    (congrArg ChannelRegs.fill hc1).trans (fill_correlateBoth s .c1),
    (congrArg ChannelRegs.fill hc2).trans (fill_correlateBoth s .c2), bitAt_stoppedAfterSearch s,
    stoppedAfterSearch_eq s⟩

end Sys2Proof.Machine
end

section
/-! SUPPORT. What RECOVER's stages leave when both searches of stage 1 have a winner (44_recover_pipeline.md R160 to
R164). -/

namespace Sys2Proof.Machine

/-! ### Generation from a candidate's state -/

/-- The run from candidate j's state is the run from 1, j steps on. -/
theorem runState_add (n : Nat) (m : Word) (j t : Nat) : runState n m (j + t) = (lfsrStep n m)^[t] (runState n m j) := by
  rw [runState_eq_iterate, runState_eq_iterate, Nat.add_comm, Function.iterate_add_apply]

/-- The output bits of candidate `j` of channel `k`. -/
abbrev State.candidateBit (s : State) (k : Channel) (j i : Nat) : Bool :=
  runBit (s.chan k).deg.toNat (s.chan k).mask (j + i)

/-- Channel `k` when candidate `j` has been recovered at distance `d` and its sequence regenerated at length N. -/
def State.recoveredChan (s : State) (k : Channel) (j : Nat) (d : Word) : ChannelRegs :=
  { s.chan k with
    fill := runState (s.chan k).deg.toNat (s.chan k).mask (j + s.tlen.toNat)
    rfill := candidate s k j, rdist := d, rstat := 1#32 }

section
variable {s t : State} (h : KeepsInputs s t)
include h

theorem KeepsInputs.tlen_eq : t.tlen = s.tlen := by
  obtain ⟨⟨-, hlen, -⟩, -⟩ := h
  exact hlen

theorem KeepsInputs.register_eq (k : Channel) :
    (t.chan k).deg = (s.chan k).deg ∧ (t.chan k).mask = (s.chan k).mask := by
  obtain ⟨⟨-, -, hconfig⟩, -⟩ := h
  obtain ⟨hdeg, hmask, -⟩ := hconfig k
  exact ⟨hdeg, hmask⟩

theorem KeepsInputs.recoverLegal_iff (k : Channel) : RecoverLegal t k ↔ RecoverLegal s k := by
  rw [← Machine.recoverLegal_iff, ← Machine.recoverLegal_iff, h.recoverLegal_eq]

theorem KeepsInputs.chan_generateInto_candidate (k : Channel) (j len : Nat) :
    (t.generateInto k (candidate s k j) len).chan k =
      { t.chan k with fill := runState (s.chan k).deg.toNat (s.chan k).mask (j + len) } := by
  obtain ⟨hdeg, hmask⟩ := h.register_eq k
  rw [chan_generateInto_same, lfsrGen_snd, State.degree, hdeg, hmask, candidate, ← runState_add]

theorem KeepsInputs.bitAt_generateInto_candidate (k : Channel) (j len : Nat) (sp : Space) (a : Nat) :
    (t.generateInto k (candidate s k j) len).bitAt sp a =
      if sp = .seq k ∧ a < len then s.candidateBit k j a else t.bitAt sp a := by
  obtain ⟨hdeg, hmask⟩ := h.register_eq k
  rw [bitAt_generateInto, State.degree, hdeg, hmask]
  refine if_ctx_congr Iff.rfl (fun ha => ?_) fun _ => rfl
  rw [List.getD_eq_getElem?_getD, getElem?_lfsrGen_candidate s k j ha.2, Option.getD_some]

theorem KeepsInputs.candidate_eq (k : Channel) (j : Nat) : candidate t k j = candidate s k j := by
  obtain ⟨hdeg, hmask⟩ := h.register_eq k
  rw [candidate, candidate, hdeg, hmask]

/-- Whether a candidate of channel 3 is consistent depends on the target, on channel 3's register and on the first N
bits of X and Y. -/
theorem KeepsInputs.consistent_iff {x y x' y' : Nat → Bool} (hx : ∀ a, a < s.tlen.toNat → x' a = x a)
    (hy : ∀ a, a < s.tlen.toNat → y' a = y a) (j : Nat) : Consistent t x' y' j ↔ Consistent s x y j := by
  obtain ⟨hdeg, hmask⟩ := h.register_eq .c3
  rw [Consistent, Consistent, h.candidate_eq, h.tlen_eq, hdeg, hmask]
  refine and_congr_right fun _ => forall₂_congr fun a ha => ?_
  rw [hx a ha, hy a ha, h.target]

end

/-! ### Stages 1 and 2 -/

theorem keepsInputs_regenerated (s : State) : KeepsInputs s s.regenerated := (keepsInputs_corrBoth s).recoverRegenerate

theorem chan_regenerated_c3 (s : State) : s.regenerated.chan .c3 = s.chan .c3 := by
  simp [State.regenerated, recoverRegenerate_eq, chan_corrBoth]

theorem chan_corrBoth_of_winner {s : State} {k : Channel} {j : Nat} (hk : k = .c1 ∨ k = .c2) (hp : s.params.Legal)
    (hl : RecoverLegal s k) (hw : Winner s k j) :
    s.corrBoth.chan k =
      { s.chan k with rfill := candidate s k j, rdist := BitVec.ofNat 32 (distance s k j), rstat := 1#32 } := by
  have hcorr : CorrelateLegal s k := by
    obtain rfl | rfl := hk
    · exact hl
    · exact hl
  rw [chan_corrBoth, if_pos hk, chan_corrUnit_of_winner .a hp hcorr hw]
  rfl

section
variable {s : State} {j1 j2 : Nat} (hp : s.params.Legal) (hl : ∀ k, RecoverLegal s k) (hw1 : Winner s .c1 j1)
  (hw2 : Winner s .c2 j2)
include hp hl hw1 hw2

theorem searchesOk_of_winners : s.SearchesOk :=
  ⟨congrArg ChannelRegs.rstat (chan_corrBoth_of_winner (.inl rfl) hp (hl .c1) hw1),
    congrArg ChannelRegs.rstat (chan_corrBoth_of_winner (.inr rfl) hp (hl .c2) hw2)⟩

theorem regenerated_eq :
    s.regenerated =
      ((s.corrBoth.setPhase .regen).generateInto .c1 (candidate s .c1 j1) s.tlen.toNat).generateInto .c2
        (candidate s .c2 j2) s.tlen.toNat := by
  rw [State.regenerated, recoverRegenerate_eq, chan_corrBoth_of_winner (.inl rfl) hp (hl .c1) hw1,
    chan_corrBoth_of_winner (.inr rfl) hp (hl .c2) hw2, (keepsInputs_corrBoth s).tlen_eq]

theorem chan_regenerated_c1 :
    s.regenerated.chan .c1 = s.recoveredChan .c1 j1 (BitVec.ofNat 32 (distance s .c1 j1)) := by
  have h : KeepsInputs s (s.corrBoth.setPhase .regen) := (keepsInputs_corrBoth s).trans (keepsInputs_setPhase _ _)
  rw [regenerated_eq hp hl hw1 hw2, chan_generateInto_ne _ _ _ _ _ (by decide), h.chan_generateInto_candidate,
    chan_setPhase, chan_corrBoth_of_winner (.inl rfl) hp (hl .c1) hw1]
  rfl

theorem chan_regenerated_c2 :
    s.regenerated.chan .c2 = s.recoveredChan .c2 j2 (BitVec.ofNat 32 (distance s .c2 j2)) := by
  have h : KeepsInputs s
      ((s.corrBoth.setPhase .regen).generateInto .c1 (candidate s .c1 j1) s.tlen.toNat) :=
    ((keepsInputs_corrBoth s).trans (keepsInputs_setPhase _ _)).trans (keepsInputs_generateInto _ _ _ _)
  rw [regenerated_eq hp hl hw1 hw2, h.chan_generateInto_candidate, chan_generateInto_ne _ _ _ _ _ (by decide),
    chan_setPhase, chan_corrBoth_of_winner (.inr rfl) hp (hl .c2) hw2]
  rfl

/-- Stage 2 writes the two winners' sequences (R160). -/
theorem bitAt_regenerated (sp : Space) (a : Nat) :
    s.regenerated.bitAt sp a =
      if sp = .seq .c1 ∧ a < s.tlen.toNat then s.candidateBit .c1 j1 a
      else if sp = .seq .c2 ∧ a < s.tlen.toNat then s.candidateBit .c2 j2 a
      else s.bitAt sp a := by
  have h : KeepsInputs s (s.corrBoth.setPhase .regen) := (keepsInputs_corrBoth s).trans (keepsInputs_setPhase _ _)
  rw [regenerated_eq hp hl hw1 hw2, (h.trans (keepsInputs_generateInto _ _ _ _)).bitAt_generateInto_candidate,
    h.bitAt_generateInto_candidate, bitAt_setPhase, bitAt_corrBoth]
  by_cases h1 : sp = .seq .c1
  · simp [h1]
  · simp [h1]

/-! ### Stage 3 -/

theorem selectable_regenerated_iff (j : Nat) :
    (s.regenerated.setPhase .scan3).Selectable j ↔
      Consistent s (s.candidateBit .c1 j1) (s.candidateBit .c2 j2) j := by
  refine ((keepsInputs_regenerated s).trans (keepsInputs_setPhase _ _)).consistent_iff (fun a ha => ?_)
    (fun a ha => ?_) j
  · simp [bitAt_regenerated hp hl hw1 hw2, ha]
  · simp [bitAt_regenerated hp hl hw1 hw2, ha]

/-- What stage 3 finds in the state stage 2 leaves is the first candidate consistent with the winners' sequences. -/
theorem firstSelectable_regenerated_iff (j : Nat) :
    (s.regenerated.setPhase .scan3).FirstSelectable j ↔
      FirstConsistent s (s.candidateBit .c1 j1) (s.candidateBit .c2 j2) j := by
  simp only [State.FirstSelectable, FirstConsistent, selectable_regenerated_iff hp hl hw1 hw2, chan_setPhase,
    chan_regenerated_c3]

/-- Stage 3 returns the first candidate consistent with the winners' sequences, or fails where there is none. -/
theorem chan_recoverSelect_cases :
    (∃ j, FirstConsistent s (s.candidateBit .c1 j1) (s.candidateBit .c2 j2) j ∧
      s.regenerated.recoverSelect.chan .c3 =
        { s.chan .c3 with rfill := candidate s .c3 j, rdist := 0#32, rstat := 1#32 }) ∨
    ((∀ j, j < 2 ^ (s.chan .c3).deg.toNat → ¬ Consistent s (s.candidateBit .c1 j1) (s.candidateBit .c2 j2) j) ∧
      s.regenerated.recoverSelect.chan .c3 =
        { s.chan .c3 with rfill := 0#32, rdist := distNone, rstat := 2#32 }) := by
  have hkeeps : KeepsInputs s (s.regenerated.setPhase .scan3) :=
    (keepsInputs_regenerated s).trans (keepsInputs_setPhase _ _)
  have hchan : (s.regenerated.setPhase .scan3).chan .c3 = s.chan .c3 := by rw [chan_setPhase, chan_regenerated_c3]
  have hcases := chan_fselUnit_cases (hkeeps.params ▸ hp) ((hkeeps.recoverLegal_iff .c3).mpr (hl .c3))
  simp only [firstSelectable_regenerated_iff hp hl hw1 hw2, selectable_regenerated_iff hp hl hw1 hw2, hchan,
    hkeeps.candidate_eq] at hcases
  exact hcases

theorem chan_recoverSelect_of_firstConsistent {j : Nat}
    (hj : FirstConsistent s (s.candidateBit .c1 j1) (s.candidateBit .c2 j2) j) :
    s.regenerated.recoverSelect.chan .c3 =
      { s.chan .c3 with rfill := candidate s .c3 j, rdist := 0#32, rstat := 1#32 } := by
  obtain ⟨i, hi, hchan⟩ | ⟨hnone, -⟩ := chan_recoverSelect_cases hp hl hw1 hw2
  · rw [hchan, hi.unique hj]
  · obtain ⟨hlt, hmatch, -⟩ := hj
    exact absurd hmatch (hnone j hlt)

theorem chan_recoverSelect_of_none_consistent
    (h : ∀ j, j < 2 ^ (s.chan .c3).deg.toNat → ¬ Consistent s (s.candidateBit .c1 j1) (s.candidateBit .c2 j2) j) :
    s.regenerated.recoverSelect.chan .c3 = { s.chan .c3 with rfill := 0#32, rdist := distNone, rstat := 2#32 } := by
  obtain ⟨j, ⟨hlt, hmatch, -⟩, -⟩ | ⟨-, hchan⟩ := chan_recoverSelect_cases hp hl hw1 hw2
  · exact absurd hmatch (h j hlt)
  · exact hchan

end

theorem keepsInputs_recoverSelect (s : State) : KeepsInputs s s.regenerated.recoverSelect :=
  (keepsInputs_regenerated s).recoverSelect

theorem chan_recoverSelect_ne (s : State) {k : Channel} (h : k ≠ .c3) : s.recoverSelect.chan k = s.chan k := by
  simp [State.recoverSelect, h]

@[simp] theorem bitAt_recoverSelect (s : State) (sp : Space) (a : Nat) : s.recoverSelect.bitAt sp a = s.bitAt sp a := by
  simp [State.recoverSelect]

theorem regenerated_frame (s : State) :
    s.regenerated = { s with
      ch1 := s.regenerated.ch1, ch2 := s.regenerated.ch2, seq1 := s.regenerated.seq1, seq2 := s.regenerated.seq2
      unitA := s.regenerated.unitA, unitB := s.regenerated.unitB, phase := .regen } := by
  rw [State.regenerated, recoverRegenerate_frame, corrBoth_frame]

/-- Settles O36: stage 3 finds no candidate consistent with the sequences stage 2 has written. -/
theorem recoverStopsAfterFailedSelection : Obligations.RecoverStopsAfterFailedSelection := by
  intro s j1 j2 hp hl hw1 hw2 hnone
  have hc3 := chan_recoverSelect_of_none_consistent hp hl hw1 hw2 hnone
  have hrstat : (s.regenerated.recoverSelect.chan .c3).rstat = rstatWord .recoveryFailure :=
    congrArg ChannelRegs.rstat hc3
  have hfailed : (s.regenerated.recoverSelect.chan .c3).rstat ≠ 1#32 := by
    rw [hrstat]
    decide
  have hchan (k : Channel) := chan_concludeSearch s.regenerated.recoverSelect [.c3] k
  refine ⟨_, exec_recover_of_select_failed hl (searchesOk_of_winners hp hl hw1 hw2) hfailed,
    cstat_concludeSearch_of_failed [] hrstat (by decide), ?_, ?_, (hchan .c3).trans hc3, fun sp a => ?_, ?_⟩
  · exact (hchan .c1).trans ((chan_recoverSelect_ne _ (by decide)).trans (chan_regenerated_c1 hp hl hw1 hw2))
  · exact (hchan .c2).trans ((chan_recoverSelect_ne _ (by decide)).trans (chan_regenerated_c2 hp hl hw1 hw2))
  · rw [bitAt_concludeSearch, bitAt_recoverSelect, bitAt_regenerated hp hl hw1 hw2]
    rfl
  · rw [concludeSearch_eq, recoverSelect_frame, regenerated_frame]

/-! ### Stage 4 -/

section
variable {s t : State} {j : Nat} (h : KeepsInputs s t) (hc : (t.chan .c3).rfill = candidate s .c3 j)
include h hc

theorem recoverVerify_of_candidate :
    t.recoverVerify =
      ((t.setPhase .verify).generateInto .c3 (candidate s .c3 j) s.tlen.toNat).combineInto s.tlen.toNat := by
  rw [State.recoverVerify, hc, h.tlen_eq]

theorem chan_recoverVerify_c3 :
    t.recoverVerify.chan .c3 =
      { t.chan .c3 with fill := runState (s.chan .c3).deg.toNat (s.chan .c3).mask (j + s.tlen.toNat) } := by
  rw [recoverVerify_of_candidate h hc, chan_combineInto,
    (h.trans (keepsInputs_setPhase t .verify)).chan_generateInto_candidate, chan_setPhase]

/-- Stage 4 writes channel 3's sequence, and to OUT the combination of the three. -/
theorem bitAt_recoverVerify (sp : Space) (a : Nat) :
    t.recoverVerify.bitAt sp a =
      if sp = .seq .c3 ∧ a < s.tlen.toNat then s.candidateBit .c3 j a
      else if sp = .out ∧ a < s.tlen.toNat then
        geffe (t.bitAt (.seq .c1) a) (t.bitAt (.seq .c2) a) (s.candidateBit .c3 j a)
      else t.bitAt sp a := by
  rw [recoverVerify_of_candidate h hc, bitAt_combineInto]
  simp only [(h.trans (keepsInputs_setPhase t .verify)).bitAt_generateInto_candidate, bitAt_setPhase]
  by_cases ha : a < s.tlen.toNat
  · by_cases hsp : sp = .out
    · simp [ha, hsp]
    · simp [ha, hsp]
  · simp [ha]

end

theorem chan_recoverVerify_ne (s : State) {k : Channel} (h : k ≠ .c3) : s.recoverVerify.chan k = s.chan k := by
  simp [State.recoverVerify, h]

section
variable {s : State} {j1 j2 j3 : Nat} (hp : s.params.Legal) (hl : ∀ k, RecoverLegal s k) (hw1 : Winner s .c1 j1)
  (hw2 : Winner s .c2 j2) (hj3 : FirstConsistent s (s.candidateBit .c1 j1) (s.candidateBit .c2 j2) j3)
include hp hl hw1 hw2 hj3

/-- The combination of the three sequences is the target, since the selector's candidate is consistent with it. -/
theorem bitAt_recovered (sp : Space) (a : Nat) :
    s.regenerated.recoverSelect.recoverVerify.bitAt sp a =
      if a < s.tlen.toNat then
        match sp with
        | .tgt => s.bitAt .tgt a
        | .seq .c1 => s.candidateBit .c1 j1 a
        | .seq .c2 => s.candidateBit .c2 j2 a
        | .seq .c3 => s.candidateBit .c3 j3 a
        | .out => s.bitAt .tgt a
      else s.bitAt sp a := by
  have hrfill := congrArg ChannelRegs.rfill (chan_recoverSelect_of_firstConsistent hp hl hw1 hw2 hj3)
  obtain ⟨-, ⟨-, htarget⟩, -⟩ := hj3
  rw [bitAt_recoverVerify (keepsInputs_recoverSelect s) hrfill]
  simp only [bitAt_recoverSelect, bitAt_regenerated hp hl hw1 hw2]
  by_cases ha : a < s.tlen.toNat
  · cases sp with
    | tgt => simp
    | seq k => cases k <;> simp [ha]
    | out => simpa [ha, geffe] using htarget a ha
  · simp [ha]

end

/-- Settles O37: each stage finds its state. -/
theorem recoverFindsTheThreeStates : Obligations.RecoverFindsTheThreeStates := by
  intro s j1 j2 j3 hp hl hw1 hw2 hj3
  have hc3 := chan_recoverSelect_of_firstConsistent hp hl hw1 hw2 hj3
  have hchan (k : Channel) := chan_concludeOk s.regenerated.recoverSelect.recoverVerify k
  have hselect {k : Channel} (hk : k ≠ .c3) :
      s.regenerated.recoverSelect.recoverVerify.chan k = s.regenerated.chan k :=
    (chan_recoverVerify_ne _ hk).trans (chan_recoverSelect_ne _ hk)
  refine ⟨_, exec_recover_of_select_ok hl (searchesOk_of_winners hp hl hw1 hw2) (congrArg ChannelRegs.rstat hc3), rfl,
    ?_, ?_, ?_, fun sp a => ?_, ?_⟩
  · exact (hchan .c1).trans ((hselect (by decide)).trans (chan_regenerated_c1 hp hl hw1 hw2))
  · exact (hchan .c2).trans ((hselect (by decide)).trans (chan_regenerated_c2 hp hl hw1 hw2))
  · refine (hchan .c3).trans ?_
    rw [chan_recoverVerify_c3 (keepsInputs_recoverSelect s) (congrArg ChannelRegs.rfill hc3), hc3]
    rfl
  · rw [bitAt_concludeOk, bitAt_recovered hp hl hw1 hw2 hj3]
    rfl
  · rw [recoverVerify_frame, recoverSelect_frame, regenerated_frame]
    rfl

end Sys2Proof.Machine
end

section
/-! SUPPORT. What a RECOVER that ends OK has found (44_recover_pipeline.md R163, R164). -/

namespace Sys2Proof.Machine

/-! ### Which of its outcomes a RECOVER has -/

theorem lfsrLegal_of_recoverLegal {s : State} {k : Channel} (h : RecoverLegal s k) : LfsrLegal s k := by
  cases k with
  | c1 | c2 | c3 => exact h.1

/-- A searching command ends OK exactly when every channel it searched did. -/
theorem cstat_concludeSearch_eq_ok_iff (s : State) (ks : List Channel) :
    (s.concludeSearch ks).cstat = statusWord 1 0 ↔ ∀ k ∈ ks, (s.chan k).rstat = 1#32 := by
  obtain ⟨k, hk, hfailed, e⟩ | ⟨hok, e⟩ := concludeSearch_cases s ks
  · rw [e]
    exact iff_of_false (cstatWord_field_ne_ok _ k) fun h => of_decide_eq_false hfailed (h k hk)
  · rw [e]
    exact iff_of_true rfl fun k hk => of_decide_eq_true (hok k hk)

/-- A correlation search that ends OK has a winner. -/
theorem exists_winner_of_rstat_ok {s : State} {w : UnitId} {k : Channel} (hp : s.params.Legal) (hl : CorrelateLegal s k)
    (h : ((s.corrUnit w k).chan k).rstat = 1#32) : ∃ j, Winner s k j := by
  obtain ⟨x, hx⟩ := exists_corrInput hl
  cases holdsBest_corrScan hp hx (s.unit w) with
  | none hnone _ =>
    rw [chan_corrUnit_of_no_acceptable w hp hl hnone] at h
    exact absurd h (rstatWord_ne (c := .recoveryFailure) (d := .ok) (by decide))
  | best hbest _ _ => exact ⟨_, (winner_iff s k _).mpr hbest⟩

theorem exists_winners_of_searchesOk {s : State} (hp : s.params.Legal) (hl : ∀ k, RecoverLegal s k)
    (h : s.SearchesOk) : ∃ j1 j2, Winner s .c1 j1 ∧ Winner s .c2 j2 := by
  obtain ⟨h1, h2⟩ := h
  rw [chan_corrBoth, if_pos (.inl rfl)] at h1
  rw [chan_corrBoth, if_pos (.inr rfl)] at h2
  obtain ⟨j1, hj1⟩ := exists_winner_of_rstat_ok hp (hl .c1) h1
  obtain ⟨j2, hj2⟩ := exists_winner_of_rstat_ok hp (hl .c2) h2
  exact ⟨j1, j2, hj1, hj2⟩

theorem recoverLegal_of_cstat_ok {s t : State} (ht : exec .recover s = .next t) (hok : t.cstat = statusWord 1 0) :
    ∀ k, RecoverLegal s k := by
  obtain ⟨k, e⟩ | ⟨hlegal, -⟩ := execRecover_cases s
  · obtain rfl := Host.Outcome.next.inj (e.symm.trans ht)
    exact absurd hok (cstatWord_field_ne_ok _ k)
  · exact fun k => (recoverLegal_cleared_iff s k).mp (hlegal k)

theorem searchesOk_of_cstat_ok {s t : State} (hl : ∀ k, RecoverLegal s k) (ht : exec .recover s = .next t)
    (hok : t.cstat = statusWord 1 0) : s.SearchesOk := by
  by_contra hfailed
  obtain rfl := Host.Outcome.next.inj ((exec_recover_of_search_failed hl hfailed).symm.trans ht)
  have hrstat := (cstat_concludeSearch_eq_ok_iff _ _).mp hok
  exact hfailed ⟨by simpa using hrstat .c1 (by simp), by simpa using hrstat .c2 (by simp)⟩

/-- A `RECOVER` that ends OK has found a winner on channels 1 and 2 and a first consistent selector state. -/
theorem exists_recovered_of_cstat_ok {s t : State} (hp : s.params.Legal) (ht : exec .recover s = .next t)
    (hok : t.cstat = statusWord 1 0) :
    ∃ j1 j2 j3, Winner s .c1 j1 ∧ Winner s .c2 j2 ∧
      FirstConsistent s (s.candidateBit .c1 j1) (s.candidateBit .c2 j2) j3 := by
  have hl := recoverLegal_of_cstat_ok ht hok
  obtain ⟨j1, j2, hw1, hw2⟩ := exists_winners_of_searchesOk hp hl (searchesOk_of_cstat_ok hl ht hok)
  obtain ⟨j3, hj3, -⟩ | ⟨hnone, -⟩ := chan_recoverSelect_cases hp hl hw1 hw2
  · exact ⟨j1, j2, j3, hw1, hw2, hj3⟩
  · obtain ⟨u, hu, hcstat, -⟩ := recoverStopsAfterFailedSelection s j1 j2 hp hl hw1 hw2 hnone
    obtain rfl := Host.Outcome.next.inj (hu.symm.trans ht)
    exact absurd (hcstat.symm.trans hok) (by decide)

/-! ### The recovered states -/

theorem candidate_mem_lfsrStates {s : State} {k : Channel} (hp : s.params.Legal) (hl : LfsrLegal s k) (j : Nat) :
    candidate s k j ∈ lfsrStates (s.chan k).deg.toNat := by
  obtain ⟨hmin, hmax, -⟩ := hl
  obtain ⟨⟨-, hdmax⟩, -⟩ := hp
  have hone : 1#32 ∈ lfsrStates (s.chan k).deg.toNat := Nat.one_lt_two_pow (by omega)
  rw [candidate, runState_eq_iterate]
  exact iterate_mem_lfsrStates (by omega) (by omega) _ hone j

/-- Settles O38: a channel that holds candidate j's state holds the run from there, whichever channel it
is. -/
theorem recoverOkReproducesTheTarget : Obligations.RecoverOkReproducesTheTarget := by
  intro s t hp ht hok
  have hl := recoverLegal_of_cstat_ok ht hok
  obtain ⟨j1, j2, j3, hw1, hw2, hj3⟩ := exists_recovered_of_cstat_ok hp ht hok
  obtain ⟨u, hu, -, hc1, hc2, hc3, hbits, -⟩ := recoverFindsTheThreeStates s j1 j2 j3 hp hl hw1 hw2 hj3
  obtain rfl := Host.Outcome.next.inj (hu.symm.trans ht)
  have hrecovered (k : Channel) : ∃ j d, u.chan k = s.recoveredChan k j d ∧ candidate s k j ≠ 0#32 ∧
      ∀ a, a < s.tlen.toNat → u.bitAt (.seq k) a = s.candidateBit k j a := by
    obtain ⟨-, ⟨hne1, -⟩, -⟩ := hw1
    obtain ⟨-, ⟨hne2, -⟩, -⟩ := hw2
    obtain ⟨-, ⟨hne3, -⟩, -⟩ := hj3
    cases k with
    | c1 => exact ⟨j1, _, hc1, hne1, fun a ha => by rw [hbits, if_pos ha]; rfl⟩
    | c2 => exact ⟨j2, _, hc2, hne2, fun a ha => by rw [hbits, if_pos ha]; rfl⟩
    | c3 => exact ⟨j3, _, hc3, hne3, fun a ha => by rw [hbits, if_pos ha]; rfl⟩
  refine ⟨fun a ha => ?_, fun k => ?_⟩
  · rw [hbits, hbits, if_pos ha, if_pos ha]
    exact ⟨rfl, rfl⟩
  · obtain ⟨j, d, hchan, hne, hseq⟩ := hrecovered k
    rw [hchan]
    refine ⟨rfl, hne, candidate_mem_lfsrStates hp (lfsrLegal_of_recoverLegal (hl k)) j, fun a ha => ?_, ?_⟩
    · rw [hseq a ha]
      exact runBit_add _ _ _ _
    · exact runState_add _ _ _ _

end Sys2Proof.Machine
end

section
/-! SUPPORT. RECOVER beside the stages a host issues one by one (44_recover_pipeline.md R166). -/

namespace Sys2Proof.Machine

/-! ### States that differ in GLEN, CSTAT and PHASE only -/

/-- `u` holds what `t` holds, but for GLEN, CSTAT and PHASE: no generation, combination or search reads these three once
it is given its length. -/
def SameWork (t u : State) : Prop := ∃ g c p, u = { t with glen := g, cstat := c, phase := p }

theorem SameWork.symm {t u : State} (h : SameWork t u) : SameWork u t := by
  obtain ⟨g, c, p, rfl⟩ := h
  exact ⟨t.glen, t.cstat, t.phase, rfl⟩

theorem SameWork.trans {t u v : State} (h : SameWork t u) (h' : SameWork u v) : SameWork t v := by
  obtain ⟨g, c, p, rfl⟩ := h
  obtain ⟨g', c', p', rfl⟩ := h'
  exact ⟨g', c', p', rfl⟩

theorem sameWork_setPhase (t : State) (p : Phase) : SameWork t (t.setPhase p) := ⟨t.glen, t.cstat, p, rfl⟩

theorem sameWork_concludeOk (t : State) : SameWork t t.concludeOk := ⟨t.glen, _, _, rfl⟩

theorem sameWork_concludeSearch (t : State) (ks : List Channel) : SameWork t (t.concludeSearch ks) :=
  ⟨t.glen, _, _, concludeSearch_eq t ks⟩

section
variable {t u : State} (h : SameWork t u)
include h

theorem SameWork.chan_eq (k : Channel) : u.chan k = t.chan k := by
  obtain ⟨g, c, p, rfl⟩ := h
  cases k <;> rfl

theorem SameWork.bitAt_eq (sp : Space) (a : Nat) : u.bitAt sp a = t.bitAt sp a := by
  obtain ⟨g, c, p, rfl⟩ := h
  rfl

theorem SameWork.tlen_eq : u.tlen = t.tlen := by
  obtain ⟨g, c, p, rfl⟩ := h
  rfl

theorem SameWork.params_eq : u.params = t.params := by
  obtain ⟨g, c, p, rfl⟩ := h
  rfl

theorem SameWork.generateInto (k : Channel) (f : Word) (len : Nat) :
    SameWork (t.generateInto k f len) (u.generateInto k f len) := by
  obtain ⟨g, c, p, rfl⟩ := h
  exact ⟨g, c, p, by cases k <;> rfl⟩

theorem SameWork.combineInto (len : Nat) : SameWork (t.combineInto len) (u.combineInto len) := by
  obtain ⟨g, c, p, rfl⟩ := h
  exact ⟨g, c, p, rfl⟩

theorem SameWork.fselUnit : SameWork t.fselUnit u.fselUnit := by
  have hinput : u.fselInput = t.fselInput :=
    fselInput_congr h.params_eq (by rw [h.chan_eq]) (by rw [h.chan_eq]) h.tlen_eq fun sp a _ => h.bitAt_eq sp a
  obtain ⟨g, c, p, rfl⟩ := h
  refine ⟨g, c, p, ?_⟩
  unfold State.fselUnit
  rw [hinput]
  cases t.fselInput with
  | none => rfl
  | some x =>
    by_cases hfound : (fselScan x (2 ^ x.n) { t.unitA with j := 0, cand := 1#32 }).2 = true
    · simp only [hfound]
      rfl
    · simp only [hfound]
      rfl

end

/-! ### A generation writes its channel's fill, whatever it was -/

theorem generateInto_setFill_same (s : State) (k : Channel) (g f : Word) (len : Nat) :
    (s.setFill k g).generateInto k f len = s.generateInto k f len := by
  cases k <;> rfl

theorem generateInto_setFill_ne (s : State) {j k : Channel} (h : j ≠ k) (g f : Word) (len : Nat) :
    (s.setFill j g).generateInto k f len = (s.generateInto k f len).setFill j g := by
  simp only [State.setFill, generateInto_setChan_ne _ h, chan_generateInto_ne _ _ _ _ _ h]

/-! ### The host's commands -/

theorem stageThen_of_ok {i : Instr} {s t : State} {next : State → Host.Outcome State Fault Refusal}
    (h : exec i s = .next t) (hok : t.cstat = statusWord 1 0) : stageThen i next s = next t := by
  rw [stageThen, h]
  exact if_pos (by rw [hok]; decide)

theorem stageThen_of_failed {i : Instr} {s t : State} {next : State → Host.Outcome State Fault Refusal}
    (h : exec i s = .next t) (hfailed : t.cstat.extractLsb' 0 4 ≠ 1#4) : stageThen i next s = .next t := by
  rw [stageThen, h]
  exact if_neg hfailed

theorem eq_ok_of_bits {c : Code} (h : c.bits = 1#4) : c = .ok := by
  revert h
  cases c <;> decide

/-- A searching command with a channel that did not end OK does not end OK. -/
theorem code_concludeSearch_ne_ok {s : State} {ks : List Channel}
    (hcodes : ∀ k ∈ ks, ∃ c, (s.chan k).rstat = rstatWord c) (h : ¬ ∀ k ∈ ks, (s.chan k).rstat = 1#32) :
    (s.concludeSearch ks).cstat.extractLsb' 0 4 ≠ 1#4 := by
  obtain ⟨k, hk, hfailed, e⟩ | ⟨hok, -⟩ := concludeSearch_cases s ks
  · obtain ⟨c, hc⟩ := hcodes k hk
    have hcode : (s.concludeSearch ks).cstat.extractLsb' 0 4 = c.bits := by
      rw [e, cstat_conclude, hc, codeField_rstatWord]
      exact codeField_cstatWord _ _
    rw [hcode]
    intro hbits
    rw [eq_ok_of_bits hbits] at hc
    exact of_decide_eq_false hfailed hc
  · exact absurd (fun k hk => of_decide_eq_true (hok k hk)) h

theorem exists_code_corrBoth (s : State) {k : Channel} (hk : k = .c1 ∨ k = .c2) :
    ∃ c, (s.corrBoth.chan k).rstat = rstatWord c := by
  obtain ⟨u, f, d, c, e, -⟩ := corrUnit_outcome s .a k
  exact ⟨c, by rw [chan_corrBoth, if_pos hk, e, chan_setResult_same]⟩

theorem exists_code_fselUnit (s : State) : ∃ c, (s.fselUnit.chan .c3).rstat = rstatWord c := by
  obtain ⟨u, f, d, c, e, -⟩ := fselUnit_outcome s
  exact ⟨c, by rw [e, chan_setResult_same]⟩

/-- The host stops after a `CORR2` that failed. -/
theorem hostStages_of_search_failed {s : State} (h : ¬ s.SearchesOk) : hostStages s = .next s.correlateBoth := by
  refine stageThen_of_failed (exec_corr2 s) (code_concludeSearch_ne_ok ?_ ?_)
  · exact fun k hk => exists_code_corrBoth s (by simpa using hk)
  · simpa [State.SearchesOk] using h

/-! ### GEN from a recovered fill -/

theorem exec_gen_of_legal {u : State} {k : Channel} (h : GenerateLegal u k) (hf : (u.chan k).fill ≠ 0#32) :
    exec (.gen k.field) u = .next (u.generateInto k (u.chan k).fill u.glen.toNat).concludeOk := by
  rw [exec_gen_field, generate_of_legal h hf]

/-- What the host has set up before it issues `GEN k`: the seed is candidate j's state and GLEN is TLEN, while the
configuration is that of the state `s` it started from. -/
structure SeededWith (s : State) (k : Channel) (j : Nat) (u : State) : Prop where
  params : u.params = s.params
  glen : u.glen = s.tlen
  deg : (u.chan k).deg = (s.chan k).deg
  mask : (u.chan k).mask = (s.chan k).mask
  fill : (u.chan k).fill = candidate s k j

theorem exec_gen_of_seededWith {s u : State} {k : Channel} {j : Nat} (hp : s.params.Legal)
    (hl : ∀ k, RecoverLegal s k) (hj : candidate s k j ≠ 0#32) (h : SeededWith s k j u) :
    exec (.gen k.field) u = .next (u.generateInto k (candidate s k j) s.tlen.toNat).concludeOk := by
  obtain ⟨hparams, hglen, hdeg, hmask, hfill⟩ := h
  obtain ⟨-, -, hcapacity⟩ : SelectLegal s := hl .c3
  have hlfsr := lfsrLegal_of_recoverLegal (hl k)
  have hlegal : GenerateLegal u k := by
    refine ⟨?_, by rwa [hglen, hparams], ?_⟩
    · rw [LfsrLegal, hparams, hdeg, hmask]
      exact hlfsr
    · rw [hfill, hdeg]
      exact candidate_mem_lfsrStates hp hlfsr j
  rw [exec_gen_of_legal hlegal (hfill ▸ hj), hfill, hglen]

/-- The host's WR lines after `CORR2`: the recovered fills as seeds, and TLEN as the generation length. -/
def State.loadFills (u : State) : State :=
  { u with
    ch1 := { u.ch1 with fill := u.ch1.rfill }
    ch2 := { u.ch2 with fill := u.ch2.rfill }
    glen := u.tlen }

theorem sameWork_loadFills (s : State) :
    SameWork ((s.corrBoth.setFill .c1 (s.corrBoth.chan .c1).rfill).setFill .c2 (s.corrBoth.chan .c2).rfill)
      s.correlateBoth.loadFills := by
  rw [State.correlateBoth, concludeSearch_eq]
  exact ⟨_, _, _, rfl⟩

/-- What the host does after an `FSEL` that ended OK: the recovered fill as seed, `GEN 3` and `COMB`. -/
def hostVerify (u : State) : Host.Outcome State Fault Refusal :=
  stageThen (.gen 3#2) (exec .comb) (u.setFill .c3 (u.chan .c3).rfill)

theorem hostStages_eq (s : State) :
    hostStages s = stageThen .corr2
      (fun u => stageThen (.gen 1#2) (stageThen (.gen 2#2) (stageThen .fsel hostVerify)) u.loadFills) s := rfl

section
variable {s : State} {j1 j2 : Nat} (hp : s.params.Legal) (hl : ∀ k, RecoverLegal s k) (hw1 : Winner s .c1 j1)
  (hw2 : Winner s .c2 j2)
include hp hl hw1 hw2

/-- `GEN 1` and `GEN 2` after the WR lines leave what stage 2 leaves. -/
theorem exists_hostRegenerated :
    ∃ v, SameWork s.regenerated v ∧ v.glen = s.tlen ∧ ∀ next,
      stageThen (.gen 1#2) (stageThen (.gen 2#2) next) s.correlateBoth.loadFills = next v := by
  have hwork := sameWork_loadFills s
  have hc1 := chan_corrBoth_of_winner (.inl rfl) hp (hl .c1) hw1
  have hc2 := chan_corrBoth_of_winner (.inr rfl) hp (hl .c2) hw2
  have hkeeps := keepsInputs_corrBoth s
  have hregenerated := regenerated_eq hp hl hw1 hw2
  rw [hc1, hc2] at hwork
  obtain ⟨-, ⟨hne1, -⟩, -⟩ := hw1
  obtain ⟨-, ⟨hne2, -⟩, -⟩ := hw2
  have hglen : s.correlateBoth.loadFills.glen = s.tlen := by
    rw [correlateBoth_eq]
    rfl
  have hgen1 := exec_gen_of_seededWith hp hl hne1 (u := s.correlateBoth.loadFills)
    ⟨by simp [hwork.params_eq, hkeeps.params], hglen, by simp [hwork.chan_eq, hc1], by simp [hwork.chan_eq, hc1],
      by simp [hwork.chan_eq, hc1]⟩
  have hgen2 := exec_gen_of_seededWith hp hl hne2
    (u := (s.correlateBoth.loadFills.generateInto .c1 (candidate s .c1 j1) s.tlen.toNat).concludeOk)
    ⟨by simp [hwork.params_eq, hkeeps.params], by simpa using hglen, by simp [hwork.chan_eq, hc2],
      by simp [hwork.chan_eq, hc2], by simp [hwork.chan_eq, hc2]⟩
  refine ⟨_, ?_, ?_, fun next => (stageThen_of_ok hgen1 rfl).trans (stageThen_of_ok hgen2 rfl)⟩
  · have hfills (f1 f2 : Word) :
        (((s.corrBoth.setFill .c1 f1).setFill .c2 f2).generateInto .c1 f1 s.tlen.toNat).generateInto .c2 f2
            s.tlen.toNat =
          (s.corrBoth.generateInto .c1 f1 s.tlen.toNat).generateInto .c2 f2 s.tlen.toNat := by
      rw [generateInto_setFill_ne _ (by decide), generateInto_setFill_same, generateInto_setFill_same]
    have hhost := ((hwork.generateInto .c1 (candidate s .c1 j1) s.tlen.toNat).trans
      (sameWork_concludeOk _)).generateInto .c2 (candidate s .c2 j2) s.tlen.toNat
    rw [hfills] at hhost
    rw [hregenerated]
    have hstage2 := ((sameWork_setPhase s.corrBoth .regen).symm.generateInto .c1 (candidate s .c1 j1)
      s.tlen.toNat).generateInto .c2 (candidate s .c2 j2) s.tlen.toNat
    exact (hstage2.trans hhost).trans (sameWork_concludeOk _)
  · simpa using hglen

/-- After a `CORR2` that ended OK the host goes on to `FSEL`, which finds what stage 3 finds. -/
theorem exists_hostSelected :
    ∃ v, SameWork s.regenerated.recoverSelect v ∧ v.glen = s.tlen ∧
      v.cstat = (s.regenerated.recoverSelect.concludeSearch [.c3]).cstat ∧
      ((v.chan .c3).rstat ≠ 1#32 → hostStages s = .next v) ∧
      ((v.chan .c3).rstat = 1#32 → hostStages s = hostVerify v) := by
  obtain ⟨v, hv, hglen, hstages⟩ := exists_hostRegenerated hp hl hw1 hw2
  have hcorr2 : s.correlateBoth.cstat = statusWord 1 0 := by
    obtain ⟨hok1, hok2⟩ := searchesOk_of_winners hp hl hw1 hw2
    exact (cstat_concludeSearch_eq_ok_iff _ _).mpr (by simp [hok1, hok2])
  have hhost : hostStages s = stageThen .fsel hostVerify v := by
    rw [hostStages_eq, stageThen_of_ok (exec_corr2 s) hcorr2, hstages]
  have hselect : SameWork s.regenerated.recoverSelect v.fselUnit := ((sameWork_setPhase _ _).symm.trans hv).fselUnit
  refine ⟨v.select, hselect.trans (sameWork_concludeSearch _ _), ?_, ?_, fun hfailed => ?_, fun hok => ?_⟩
  · rw [select_eq]
    exact hglen
  · exact cstat_concludeSearch_eq (by simp [hselect.chan_eq])
  · rw [hhost]
    rw [chan_select] at hfailed
    refine stageThen_of_failed (exec_fsel v) (code_concludeSearch_ne_ok ?_ ?_)
    · simpa using exists_code_fselUnit v
    · simpa using hfailed
  · rw [chan_select] at hok
    rw [hhost, stageThen_of_ok (exec_fsel v) (cstat_select_of_ok hok)]

/-- `GEN 3` and `COMB` leave what stage 4 leaves. -/
theorem exists_hostVerify {v : State} {j : Nat} (hv : SameWork s.regenerated.recoverSelect v) (hglen : v.glen = s.tlen)
    (hj : FirstConsistent s (s.candidateBit .c1 j1) (s.candidateBit .c2 j2) j) :
    ∃ u, hostVerify v = .next u ∧ SameWork s.regenerated.recoverSelect.recoverVerify u ∧
      u.cstat = statusWord 1 0 := by
  have hkeeps := keepsInputs_recoverSelect s
  have hc3 := chan_recoverSelect_of_firstConsistent hp hl hw1 hw2 hj
  have hparams : v.params = s.params := hv.params_eq.trans hkeeps.params
  obtain ⟨-, -, hcapacity⟩ : SelectLegal s := hl .c3
  obtain ⟨-, ⟨hne, -⟩, -⟩ := hj
  have hgen := exec_gen_of_seededWith hp hl hne (u := v.setFill .c3 (v.chan .c3).rfill)
    ⟨by simpa using hparams, by simpa using hglen, by simp [hv.chan_eq, hc3], by simp [hv.chan_eq, hc3],
      by simp [hv.chan_eq, hc3]⟩
  rw [generateInto_setFill_same] at hgen
  have hcomb : exec .comb (v.generateInto .c3 (candidate s .c3 j) s.tlen.toNat).concludeOk =
      .next ((v.generateInto .c3 (candidate s .c3 j) s.tlen.toNat).concludeOk.combineInto s.tlen.toNat).concludeOk := by
    rw [exec_comb_of_legal (by simpa [State.GenLengthLegal, hglen, hparams] using hcapacity)]
    simp [hglen]
  refine ⟨_, (stageThen_of_ok hgen rfl).trans hcomb, ?_, rfl⟩
  rw [recoverVerify_of_candidate hkeeps (congrArg ChannelRegs.rfill hc3)]
  have hseq := ((sameWork_setPhase _ .verify).symm.trans hv).generateInto .c3 (candidate s .c3 j) s.tlen.toNat
  exact ((hseq.trans (sameWork_concludeOk _)).combineInto s.tlen.toNat).trans (sameWork_concludeOk _)

/-- Once both searches of stage 1 have a winner, the two ways of running the stages stop at the same one. -/
theorem exists_recover_and_hostStages :
    ∃ t u, exec .recover s = .next t ∧ hostStages s = .next u ∧ SameWork t u ∧ t.cstat = u.cstat ∧
      (t.chan .c1).rstat = 1#32 ∧ (t.chan .c2).rstat = 1#32 := by
  have hsearches := searchesOk_of_winners hp hl hw1 hw2
  obtain ⟨v, hv, hglen, hcstat, hfailed, hok⟩ := exists_hostSelected hp hl hw1 hw2
  rw [hv.chan_eq] at hfailed hok
  have hc1 : (s.regenerated.recoverSelect.chan .c1).rstat = 1#32 := by
    rw [chan_recoverSelect_ne _ (by decide), chan_regenerated_c1 hp hl hw1 hw2]
    rfl
  have hc2 : (s.regenerated.recoverSelect.chan .c2).rstat = 1#32 := by
    rw [chan_recoverSelect_ne _ (by decide), chan_regenerated_c2 hp hl hw1 hw2]
    rfl
  obtain ⟨j, hj, hc3⟩ | ⟨-, hc3⟩ := chan_recoverSelect_cases hp hl hw1 hw2
  · have hrstat : (s.regenerated.recoverSelect.chan .c3).rstat = 1#32 := congrArg ChannelRegs.rstat hc3
    obtain ⟨u, hu, hwork, hucstat⟩ := exists_hostVerify hp hl hw1 hw2 hv hglen hj
    refine ⟨_, u, exec_recover_of_select_ok hl hsearches hrstat, (hok hrstat).trans hu,
      (sameWork_concludeOk _).symm.trans hwork, hucstat.symm, ?_, ?_⟩
    · rwa [chan_concludeOk, chan_recoverVerify_ne _ (by decide)]
    · rwa [chan_concludeOk, chan_recoverVerify_ne _ (by decide)]
  · have hrstat : (s.regenerated.recoverSelect.chan .c3).rstat ≠ 1#32 := by
      have hfailure : (s.regenerated.recoverSelect.chan .c3).rstat = 2#32 := congrArg ChannelRegs.rstat hc3
      rw [hfailure]
      decide
    refine ⟨_, v, exec_recover_of_select_failed hl hsearches hrstat, hfailed hrstat,
      (sameWork_concludeSearch _ _).symm.trans hv, hcstat.symm, ?_, ?_⟩
    · rwa [chan_concludeSearch]
    · rwa [chan_concludeSearch]

end

/-- Settles O39: when the correlation stage fails both stop there; otherwise each stage does the work of the host's
commands. -/
theorem recoverEqualsTheHostIssuedStages : Obligations.RecoverEqualsTheHostIssuedStages := by
  intro s hp hl
  obtain ⟨t', ht', hkeeps⟩ := execRecover_keepsInputs s
  by_cases hsearches : s.SearchesOk
  · obtain ⟨j1, j2, hw1, hw2⟩ := exists_winners_of_searchesOk hp hl hsearches
    obtain ⟨t, u, ht, hu, hwork, hcstat, hok1, hok2⟩ := exists_recover_and_hostStages hp hl hw1 hw2
    obtain rfl : t = t' := by injection ht.symm.trans ht'
    obtain ⟨⟨hglen, -⟩, -⟩ := hkeeps
    exact ⟨t, u, ht, hu, (hwork.chan_eq .c1).symm, (hwork.chan_eq .c2).symm, hcstat,
      fun sp a => (hwork.bitAt_eq sp a).symm, hwork.tlen_eq.symm, hglen, fun _ => (hwork.chan_eq .c3).symm,
      fun hfailed => absurd hfailed (not_or.mpr ⟨not_not.mpr hok1, not_not.mpr hok2⟩)⟩
  · have hfailed : s.correlateBoth.ch1.rstat ≠ 1#32 ∨ s.correlateBoth.ch2.rstat ≠ 1#32 :=
      not_and_or.mp (mt (searchesOk_iff s).mpr hsearches)
    obtain ⟨c, t, hc, ht, hstop⟩ := recoverStopsAfterFailedCorrelation s hl
    obtain rfl : s.correlateBoth = c := by injection (exec_corr2 s).symm.trans hc
    obtain rfl : t = t' := by injection ht.symm.trans ht'
    obtain ⟨hc1, hc2, hc3, hcstat, -, -, hbits, -⟩ := hstop hfailed
    have hlen : s.correlateBoth.tlen = s.tlen := by rw [correlateBoth_eq]
    have hu3 : s.correlateBoth.ch3 = s.ch3 := by rw [correlateBoth_eq]
    obtain ⟨⟨hglen, htlen, -⟩, -⟩ := hkeeps
    rw [← hc1, ← hc2] at hfailed
    exact ⟨t, _, ht, hostStages_of_search_failed hsearches, hc1, hc2, hcstat,
      fun sp a => (hbits sp a).trans (bitAt_correlateBoth s sp a).symm, htlen.trans hlen.symm, hglen,
      fun ⟨hok1, hok2⟩ => absurd hfailed (not_or.mpr ⟨not_not.mpr hok1, not_not.mpr hok2⟩),
      fun _ => ⟨hu3, hc3⟩⟩

end Sys2Proof.Machine
end

section
/-! SUPPORT. The outcome code a command ends with: DEGENERATE_STATE is `GEN k`'s alone (60_exceptions.md R180, R183). -/

namespace Sys2Proof.Machine

/-! ### The code in CSTAT -/

theorem code_conclude (s : State) (c : BitVec 4) (b : BitVec 2) :
    (s.conclude c b).cstat.extractLsb' 0 4 = c := codeField_cstatWord c b

theorem code_concludeOk (s : State) : s.concludeOk.cstat.extractLsb' 0 4 = 1#4 := code_conclude s _ _

theorem code_raise (s : State) (c : Code) (b : BitVec 2) : (s.raise c b).cstat.extractLsb' 0 4 = c.bits :=
  code_conclude s _ _

theorem code_raise_ne_degenerateState (s : State) {c : Code} (hc : c ≠ .degenerateState) (b : BitVec 2) :
    (s.raise c b).cstat.extractLsb' 0 4 ≠ 4#4 := by
  rw [code_raise]
  revert hc
  cases c <;> decide

theorem code_concludeOk_ne_degenerateState (s : State) : s.concludeOk.cstat.extractLsb' 0 4 ≠ 4#4 :=
  code_raise_ne_degenerateState s (c := .ok) (by decide) _

/-! ### The searches -/

/-- A search never reports DEGENERATE_STATE (10_state.md R19). -/
theorem codeField_ne_degenerateState {w : Word} (h : RstatLegal w) : codeField w ≠ 4#4 := by
  rcases h with rfl | rfl | rfl | rfl <;> decide

theorem rstatLegal_corrUnit (s : State) (w : UnitId) (k : Channel) : RstatLegal ((s.corrUnit w k).chan k).rstat := by
  obtain ⟨u, f, d, c, e, houtcome, -⟩ := corrUnit_outcome s w k
  rw [e, chan_setResult_same]
  exact (houtcome.channelSound _).1

theorem rstatLegal_corrBoth (s : State) {k : Channel} (hk : k = .c1 ∨ k = .c2) :
    RstatLegal (s.corrBoth.chan k).rstat := by
  rw [chan_corrBoth, if_pos hk]
  exact rstatLegal_corrUnit s .a k

theorem rstatLegal_fselUnit (s : State) : RstatLegal (s.fselUnit.chan .c3).rstat := by
  obtain ⟨u, f, d, c, e, houtcome, -⟩ := fselUnit_outcome s
  rw [e, chan_setResult_same]
  exact (houtcome.channelSound _).1

/-- The end of a searching command reports OK or the outcome of one of its searches (R185). -/
theorem code_concludeSearch_ne_degenerateState {s : State} {ks : List Channel}
    (h : ∀ k ∈ ks, RstatLegal (s.chan k).rstat) : (s.concludeSearch ks).cstat.extractLsb' 0 4 ≠ 4#4 := by
  obtain ⟨k, hk, -, e⟩ | ⟨-, e⟩ := concludeSearch_cases s ks
  · rw [e, code_conclude]
    exact codeField_ne_degenerateState (h k hk)
  · rw [e]
    exact code_concludeOk_ne_degenerateState _

/-- Wherever the stages of `RECOVER` stop, they report OK or the outcome of one of their searches (R163). -/
theorem code_recoverStages_ne_degenerateState (s : State) : s.recoverStages.cstat.extractLsb' 0 4 ≠ 4#4 := by
  obtain ⟨k, hk, -, e⟩ | ⟨-, -, -, e⟩ | ⟨-, -, -, e⟩ := recoverStages_cases s
  · rw [e, code_conclude]
    exact codeField_ne_degenerateState (rstatLegal_corrBoth _ hk)
  · rw [e, code_conclude]
    exact codeField_ne_degenerateState (rstatLegal_fselUnit _)
  · rw [e]
    exact code_concludeOk_ne_degenerateState _

/-! ### Every command -/

theorem exec_gen_of_no_channel {ch : BitVec 2} (h : Channel.ofField ch = none) (s : State) :
    exec (.gen ch) s = .next s.raiseIllegal := by
  have harm : exec (.gen ch) s = execGen ch s := rfl
  rw [harm, execGen, h]

theorem exec_corr_of_no_channel {ch : BitVec 2} (h : Channel.ofField ch = none) (s : State) :
    exec (.corr ch) s = .next s.raiseIllegal := by
  have harm : exec (.corr ch) s = execCorr ch s := rfl
  rw [harm, execCorr, h]

/-- `GEN k` ends with DEGENERATE_STATE exactly when its parameters are legal and its seed is 0 (R183). -/
theorem code_generate_eq_degenerateState_iff (s : State) (k : Channel) :
    (s.generate k).cstat.extractLsb' 0 4 = 4#4 ↔ GenerateLegal s k ∧ (s.chan k).fill = 0#32 := by
  by_cases hl : GenerateLegal s k
  · by_cases hf : (s.chan k).fill = 0#32
    · rw [generate_of_fill_zero hl hf, code_raise]
      exact iff_of_true rfl ⟨hl, hf⟩
    · rw [generate_of_legal hl hf]
      exact iff_of_false (code_concludeOk_ne_degenerateState _) fun ⟨_, hzero⟩ => hf hzero
  · rw [generate_of_not_legal hl]
    exact iff_of_false (code_raise_ne_degenerateState _ (by decide) _) fun ⟨hlegal, _⟩ => hl hlegal

/-- "no other command can raise it" (R183). -/
theorem exec_code_ne_degenerateState {i : Instr} (hi : ∀ k : Channel, i ≠ .gen k.field) (s : State) :
    ∃ t, exec i s = .next t ∧ t.cstat.extractLsb' 0 4 ≠ 4#4 := by
  cases i with
  | gen ch =>
    cases hch : Channel.ofField ch with
    | some k => exact absurd (congrArg Instr.gen (ofField_eq_some hch)) (hi k)
    | none => exact ⟨_, exec_gen_of_no_channel hch s, code_raise_ne_degenerateState s (by decide) _⟩
  | comb =>
    by_cases hl : s.GenLengthLegal
    · exact ⟨_, exec_comb_of_legal hl, code_concludeOk_ne_degenerateState _⟩
    · exact ⟨_, exec_comb_of_not_legal hl, code_raise_ne_degenerateState s (by decide) _⟩
  | corr ch =>
    cases hch : Channel.ofField ch with
    | some k =>
      obtain rfl := ofField_eq_some hch
      exact ⟨_, exec_corr_field s k,
        code_concludeSearch_ne_degenerateState (by simpa using rstatLegal_corrUnit s .a k)⟩
    | none => exact ⟨_, exec_corr_of_no_channel hch s, code_raise_ne_degenerateState s (by decide) _⟩
  | corr2 =>
    exact ⟨_, exec_corr2 s,
      code_concludeSearch_ne_degenerateState fun k hk => rstatLegal_corrBoth s (by simpa using hk)⟩
  | fsel =>
    exact ⟨_, exec_fsel s, code_concludeSearch_ne_degenerateState (by simpa using rstatLegal_fselUnit s)⟩
  | recover =>
    obtain ⟨k, e⟩ | ⟨-, e⟩ := execRecover_cases s
    · exact ⟨_, e, code_raise_ne_degenerateState _ (by decide) _⟩
    · exact ⟨_, e, code_recoverStages_ne_degenerateState _⟩

/-- Settles O44: the seed is `GEN k`'s last check, and every other command ends with OK, with ILLEGAL_COMMAND, with a
failed parameter check or with the outcome of a search. -/
theorem onlyGenerateRaisesDegenerateState : Obligations.OnlyGenerateRaisesDegenerateState := by
  intro i s
  by_cases hi : ∃ k : Channel, i = .gen k.field
  · obtain ⟨k, rfl⟩ := hi
    refine ⟨_, exec_gen_field s k, fun j hj hl hf => ?_, fun hcode => ?_⟩
    · obtain rfl : k = j := field_inj (Instr.gen.inj hj)
      rw [generate_of_fill_zero hl hf, raise_field]
      rfl
    · exact ⟨k, rfl, (code_generate_eq_degenerateState_iff s k).mp hcode⟩
  · have hother (k : Channel) : i ≠ .gen k.field := fun e => hi ⟨k, e⟩
    obtain ⟨t, ht, hcode⟩ := exec_code_ne_degenerateState hother s
    exact ⟨t, ht, fun k e => absurd e (hother k), fun hdegenerate => absurd hdegenerate hcode⟩

end Sys2Proof.Machine
end

section
/-! SUPPORT. A failed command, issued again, does the same (60_exceptions.md R187, 44_recover_pipeline.md R163): it has
left the operands of its checks and searches as they were. `CORR k`, `CORR2` and `FSEL` repeat themselves whatever their
outcome; `GEN k` and `COMB` where they failed, since they have then written CSTAT only; and a failed `RECOVER`, since it
reads no fill and no sequence that it has not written itself. -/

namespace Sys2Proof.Machine

/-! ### Agreeing on the architectural state -/

theorem channelRegs_eq_of_sameResult {c d : ChannelRegs} (hdeg : c.deg = d.deg) (hmask : c.mask = d.mask)
    (hnreq : c.nreq = d.nreq) (hthresh : c.thresh = d.thresh) (hfill : c.fill = d.fill) (h : SameResult c d) :
    c = d := by
  obtain ⟨hrfill, hrdist, hrstat⟩ := h
  cases c
  cases d
  simp_all

theorem SameResult.symm {c d : ChannelRegs} (h : SameResult c d) : SameResult d c := by
  obtain ⟨hrfill, hrdist, hrstat⟩ := h
  exact ⟨hrfill.symm, hrdist.symm, hrstat.symm⟩

/-- Besides what no command writes, the architectural state is CSTAT, the fills, the results and the memories. -/
theorem KeepsInputs.sameArchitecture {t u : State} (h : KeepsInputs t u) (hcstat : u.cstat = t.cstat)
    (hfill : ∀ k, (u.chan k).fill = (t.chan k).fill) (hresult : ∀ k, SameResult (t.chan k) (u.chan k))
    (hbits : ∀ sp a, u.bitAt sp a = t.bitAt sp a) : SameArchitecture t u := by
  obtain ⟨⟨hglen, htlen, hconfig⟩, -, -⟩ := h
  refine ⟨fun k => ?_, hglen, htlen, hcstat, hbits⟩
  obtain ⟨hdeg, hmask, hnreq, hthresh⟩ := hconfig k
  exact channelRegs_eq_of_sameResult hdeg hmask hnreq hthresh (hfill k) (hresult k).symm

/-- A command that only writes the CSTAT that is already there changes nothing. -/
theorem sameArchitecture_raise {t : State} {c : Code} {b : BitVec 2} (h : t.cstat = cstatWord c.bits b) :
    SameArchitecture t (t.raise c b) :=
  ⟨chan_raise t c b, rfl, rfl, h.symm, bitAt_conclude t c.bits b⟩

/-! ### GEN k and COMB -/

theorem generateLegal_raise_iff (s : State) (k : Channel) (c : Code) (b : BitVec 2) :
    GenerateLegal (s.raise c b) k ↔ GenerateLegal s k := by
  simp [GenerateLegal, LfsrLegal]

/-- A `GEN k` that fails has written CSTAT only, so its checks fail again. -/
theorem sameArchitecture_generate {s : State} {k : Channel} (h : (s.generate k).cstat.extractLsb' 0 4 ≠ 1#4) :
    SameArchitecture (s.generate k) ((s.generate k).generate k) := by
  by_cases hl : GenerateLegal s k
  · by_cases hf : (s.chan k).fill = 0#32
    · rw [generate_of_fill_zero hl hf,
        generate_of_fill_zero ((generateLegal_raise_iff s k _ _).mpr hl) (by rwa [chan_raise])]
      exact sameArchitecture_raise (cstat_raise _ _ _)
    · rw [generate_of_legal hl hf] at h
      exact absurd (code_concludeOk _) h
  · rw [generate_of_not_legal hl, generate_of_not_legal (mt (generateLegal_raise_iff s k _ _).mp hl)]
    exact sameArchitecture_raise (cstat_raise _ _ _)

/-! ### The searching commands -/

/-- A search whose results are those already there, and which writes nothing else but its units, ends as the last one
did. -/
theorem sameArchitecture_concludeSearch {v w : State} {ks : List Channel} (hkeeps : KeepsInputs (v.concludeSearch ks) w)
    (hfill : ∀ k, (w.chan k).fill = (v.chan k).fill) (hresult : ∀ k, SameResult (v.chan k) (w.chan k))
    (hbits : ∀ sp a, w.bitAt sp a = v.bitAt sp a) :
    SameArchitecture (v.concludeSearch ks) (w.concludeSearch ks) := by
  refine (hkeeps.concludeSearch ks).sameArchitecture (cstat_concludeSearch_eq fun k _ => ?_) ?_ ?_ ?_
  · exact (hresult k).rstat_eq.symm
  · simpa using hfill
  · simpa using hresult
  · simpa using hbits

theorem sameArchitecture_correlate (s : State) (k : Channel) :
    SameArchitecture (s.correlate k) ((s.correlate k).correlate k) := by
  have hinput := ((keepsInputs_corrUnit s .a k).concludeSearch [k]).corrInput_eq k
  refine sameArchitecture_concludeSearch (keepsInputs_corrUnit _ .a k) (by simp) (fun j => ?_) (by simp)
  by_cases hj : j = k
  · subst hj
    exact sameResult_corrUnit .a .a hinput.symm
  · exact .of_eq (by simp [hj])

theorem sameArchitecture_correlateBoth (s : State) :
    SameArchitecture s.correlateBoth s.correlateBoth.correlateBoth := by
  have hinput := ((keepsInputs_corrBoth s).concludeSearch [.c1, .c2]).corrInput_eq
  obtain ⟨h1, h2⟩ := sameResult_corrBoth (hinput .c1).symm (hinput .c2).symm
  refine sameArchitecture_concludeSearch (keepsInputs_corrBoth _) (by simp [State.corrBoth, fill_correlateBoth])
    (fun k => ?_) (by simp)
  cases k with
  | c1 => exact h1
  | c2 => exact h2
  | c3 => exact .of_eq (by simp [chan_corrBoth, chan_correlateBoth])

theorem sameArchitecture_select (s : State) : SameArchitecture s.select s.select.select := by
  have hkeeps := (keepsInputs_fselUnit s).concludeSearch [.c3]
  obtain ⟨hdeg, hmask⟩ := hkeeps.register_eq .c3
  have hinput : s.select.fselInput = s.fselInput :=
    fselInput_congr hkeeps.params hdeg hmask hkeeps.tlen_eq fun sp a _ => bitAt_select s sp a
  refine sameArchitecture_concludeSearch (keepsInputs_fselUnit _) (by simp) (fun k => ?_) (by simp)
  by_cases hk : k = .c3
  · subst hk
    exact sameResult_fselUnit hinput.symm
  · exact .of_eq (by simp [hk])

/-! ### RECOVER -/

/-- From `s` to `t` no fill changes but those of the channels `ks`, and no element but the first N of their
sequences. -/
structure RegeneratesOnly (ks : List Channel) (s t : State) : Prop where
  fill : ∀ k, k ∉ ks → (t.chan k).fill = (s.chan k).fill
  memory : ∀ sp a, (∀ k ∈ ks, ¬ (sp = .seq k ∧ a < s.tlen.toNat)) → t.bitAt sp a = s.bitAt sp a

theorem regeneratesOnly_marked (s : State) (c : Code) (b : BitVec 2) : RegeneratesOnly [] s (s.marked.raise c b) := by
  refine ⟨fun k _ => ?_, fun sp a _ => ?_⟩
  · rw [chan_raise, chan_marked, chan_cleared]
    split <;> rfl
  · rw [marked_eq]
    rfl

theorem regeneratesOnly_stoppedAfterSearch (s : State) : RegeneratesOnly [] s s.stoppedAfterSearch := by
  refine ⟨fun k _ => ?_, fun sp a _ => bitAt_stoppedAfterSearch s sp a⟩
  by_cases hk : k = .c3
  · rw [hk, chan_stoppedAfterSearch_c3]
  · rw [chan_stoppedAfterSearch_ne s hk, fill_correlateBoth]

/-- Stage 2 is the only one of the first three that writes a fill or a memory. -/
theorem regeneratesOnly_stoppedAfterSelect (s : State) :
    RegeneratesOnly [.c1, .c2] s (s.regenerated.recoverSelect.concludeSearch [.c3]) := by
  refine ⟨fun k hk => ?_, fun sp a ha => ?_⟩
  · obtain rfl : k = .c3 := by cases k <;> simp_all
    simp [State.recoverSelect, chan_regenerated_c3]
  · rw [bitAt_concludeSearch, bitAt_recoverSelect, State.regenerated, recoverRegenerate_eq, bitAt_generateInto,
      bitAt_generateInto, (keepsInputs_corrBoth s).tlen_eq, if_neg, if_neg, bitAt_setPhase, bitAt_corrBoth]
    · exact ha .c1 (by simp)
    · exact ha .c2 (by simp)

/-- A stage 3 that finds no selector state ends with RECOVERY_FAILURE: its parameters have been checked. -/
theorem rstat_recoverSelect_of_failed {s : State} (hp : s.params.Legal) (hl : ∀ k, RecoverLegal s k)
    (h : s.SearchesOk) (h3 : (s.regenerated.recoverSelect.chan .c3).rstat ≠ 1#32) :
    (s.regenerated.recoverSelect.chan .c3).rstat = rstatWord .recoveryFailure := by
  obtain ⟨j1, j2, hw1, hw2⟩ := exists_winners_of_searchesOk hp hl h
  obtain ⟨_, _, hchan⟩ | ⟨-, hchan⟩ := chan_recoverSelect_cases hp hl hw1 hw2
  · exact absurd (congrArg ChannelRegs.rstat hchan) h3
  · exact congrArg ChannelRegs.rstat hchan

/-- A `RECOVER` that fails has either written no fill and no memory, or has stopped after stage 3 (R163). -/
theorem regeneratesOnly_of_failed {s t : State} (hp : s.params.Legal) (ht : exec .recover s = .next t)
    (hfailed : t.cstat.extractLsb' 0 4 ≠ 1#4) :
    RegeneratesOnly [] s t ∨ (t.cstat = statusWord 2 3 ∧ RegeneratesOnly [.c1, .c2] s t) := by
  obtain ⟨k, e⟩ | ⟨hlegal, -⟩ := execRecover_cases s
  · obtain rfl := Host.Outcome.next.inj (e.symm.trans ht)
    exact .inl (regeneratesOnly_marked s _ _)
  have hl (k : Channel) : RecoverLegal s k := (recoverLegal_cleared_iff s k).mp (hlegal k)
  by_cases hsearches : s.SearchesOk
  · by_cases h3 : (s.regenerated.recoverSelect.chan .c3).rstat = 1#32
    · obtain rfl := Host.Outcome.next.inj ((exec_recover_of_select_ok hl hsearches h3).symm.trans ht)
      exact absurd (code_concludeOk _) hfailed
    · obtain rfl := Host.Outcome.next.inj ((exec_recover_of_select_failed hl hsearches h3).symm.trans ht)
      have hrstat := rstat_recoverSelect_of_failed hp hl hsearches h3
      exact .inr ⟨cstat_concludeSearch_of_failed [] hrstat (by decide), regeneratesOnly_stoppedAfterSelect s⟩
  · obtain rfl := Host.Outcome.next.inj ((exec_recover_of_search_failed hl hsearches).symm.trans ht)
    exact .inl (regeneratesOnly_stoppedAfterSearch s)

/-- The two runs write the same, since no stage writes an operand of `RECOVER`; and the second leaves alone what the
first had not written. -/
theorem sameArchitecture_recover {s t u : State} (hp : s.params.Legal) (ht : exec .recover s = .next t)
    (hu : exec .recover t = .next u) (hfailed : t.cstat.extractLsb' 0 4 ≠ 1#4) : SameArchitecture t u := by
  obtain ⟨t', ht', hst⟩ := exec_keepsInputs .recover s
  obtain rfl : t = t' := Host.Outcome.next.inj (ht.symm.trans ht')
  obtain ⟨u', hu', htu⟩ := exec_keepsInputs .recover t
  obtain ⟨t'', u'', ht'', hu'', hcstat, hresult, -, hstage3⟩ :=
    recover_sameWritten ((keepsInputs_refl s).sameOperands hst (sameOperands_recover_refl s))
  obtain rfl : t = t'' := Host.Outcome.next.inj (ht.symm.trans ht'')
  obtain rfl : u = u' := Host.Outcome.next.inj (hu.symm.trans hu')
  obtain rfl : u = u'' := Host.Outcome.next.inj (hu.symm.trans hu'')
  obtain hframe | ⟨hstop, hframe⟩ := regeneratesOnly_of_failed (hst.params ▸ hp) hu (hcstat ▸ hfailed)
  · exact htu.sameArchitecture hcstat.symm (fun k => hframe.fill k (by simp)) hresult
      fun sp a => hframe.memory sp a (by simp)
  · have hwritten := hstage3 (hcstat.trans hstop)
    have hne {k : Channel} (hk : k ∈ [Channel.c1, .c2]) : k ≠ .c3 := by
      rintro rfl
      simp at hk
    refine htu.sameArchitecture hcstat.symm (fun k => ?_) hresult fun sp a => ?_
    · by_cases hk : k ∈ [Channel.c1, .c2]
      · obtain ⟨hfill, -⟩ := hwritten k (hne hk)
        exact hfill.symm
      · exact hframe.fill k hk
    · by_cases ha : ∃ k ∈ [Channel.c1, .c2], sp = .seq k ∧ a < t.tlen.toNat
      · obtain ⟨k, hk, rfl, hlt⟩ := ha
        obtain ⟨-, hseq⟩ := hwritten k (hne hk)
        exact (hseq a (hst.tlen_eq ▸ hlt)).symm
      · exact hframe.memory sp a fun k hk h => ha ⟨k, hk, h⟩

/-! ### Every command -/

/-- Settles O46, command by command: the second run takes the branch of the first and writes the same values. -/
theorem failedCommandFailsAgain : Obligations.FailedCommandFailsAgain := by
  intro i s hp
  cases i with
  | gen ch =>
    cases hch : Channel.ofField ch with
    | some k =>
      obtain rfl := ofField_eq_some hch
      exact ⟨_, _, exec_gen_field s k, exec_gen_field _ k, sameArchitecture_generate⟩
    | none =>
      exact ⟨_, _, exec_gen_of_no_channel hch s, exec_gen_of_no_channel hch _, fun _ => sameArchitecture_raise rfl⟩
  | comb =>
    by_cases hl : s.GenLengthLegal
    · obtain ⟨u, hu, -⟩ := exec_keepsInputs .comb (s.combineInto s.glen.toNat).concludeOk
      exact ⟨_, u, exec_comb_of_legal hl, hu, fun hfailed => absurd (code_concludeOk _) hfailed⟩
    · exact ⟨_, _, exec_comb_of_not_legal hl, exec_comb_of_not_legal hl, fun _ => sameArchitecture_raise rfl⟩
  | corr ch =>
    cases hch : Channel.ofField ch with
    | some k =>
      obtain rfl := ofField_eq_some hch
      exact ⟨_, _, exec_corr_field s k, exec_corr_field _ k, fun _ => sameArchitecture_correlate s k⟩
    | none =>
      exact ⟨_, _, exec_corr_of_no_channel hch s, exec_corr_of_no_channel hch _,
        fun _ => sameArchitecture_raise rfl⟩
  | corr2 => exact ⟨_, _, exec_corr2 s, exec_corr2 _, fun _ => sameArchitecture_correlateBoth s⟩
  | fsel => exact ⟨_, _, exec_fsel s, exec_fsel _, fun _ => sameArchitecture_select s⟩
  | recover =>
    obtain ⟨t, ht⟩ := exists_exec_recover s
    obtain ⟨u, hu⟩ := exists_exec_recover t
    exact ⟨t, u, ht, hu, sameArchitecture_recover hp ht hu⟩

end Sys2Proof.Machine
end

section
/-! SUPPORT. Reset, and the commands of an engine that no host has configured (70_reset_and_hazards.md R210, R211,
R221). -/

namespace Sys2Proof.Machine

/-- Settles O40: one of the frame facts of every command. -/
theorem everyCommandEndsIdle : Obligations.EveryCommandEndsIdle := by
  intro i s
  obtain ⟨t, e, h⟩ := exec_endsWithin i s
  exact ⟨t, e, h.idle⟩

/-! ### The reset input -/

/-- Reset waits for no IDLE sequencer, as every other host operation does (R210). -/
theorem step_reset {s : State} {rest : List HostOp} (h : s.pending = .reset :: rest) :
    step s = .next (s.setPending rest).applyReset := by
  simp only [step, State.serveNext, h, State.serve]

theorem readReg_applyReset (s : State) : ∀ q : Reg, s.applyReset.readReg q = State.reset.readReg q
  | .cmd | .cstat | .glen | .tlen => rfl
  | .chan k q => by cases k <;> rfl

theorem registerTable_applyReset (s : State) : registerTable s.applyReset = registerTable State.reset := by
  rw [registerTable_eq, registerTable_eq, funext (readReg_applyReset s)]

/-- Settles O55: a reset keeps of the state before it only the parameters and the operations still to come. -/
theorem resetInputResetsEveryRegister : Obligations.ResetInputResetsEveryRegister := by
  intro s rest h
  exact ⟨_, step_reset h, registerTable_applyReset _, rfl, rfl, rfl⟩

/-! ### Commands without a degree -/

/-- Degree 0 fails the check "degree ≤ 1" of R182, whatever the mask. -/
theorem not_lfsrLegal_of_deg_zero {s : State} {k : Channel} (h : (s.chan k).deg = 0#32) : ¬ LfsrLegal s k := by
  rintro ⟨hdeg, -⟩
  simp [h] at hdeg

/-- A combination of length 0 has no element to write (R102). -/
theorem combineInto_zero (s : State) : s.combineInto 0 = s := rfl

theorem exec_comb_of_glen_zero {s : State} (h : s.glen = 0#32) :
    exec .comb s = .next { s with cstat := statusWord 1 0, phase := .idle } := by
  have hlength : s.glen.toNat = 0 := by rw [h]; rfl
  have hlegal : s.GenLengthLegal := hlength.trans_le (Nat.zero_le _)
  rw [exec_comb_of_legal hlegal, hlength, combineInto_zero]
  exact congrArg _ (raise_unblamed s .ok)

/-- A channel that fails the checks of its search reports it after `CORR2` (R119). -/
theorem rstat_corrBoth_of_not_legal {s : State} {k : Channel} (hk : k = .c1 ∨ k = .c2) (h : ¬ CorrelateLegal s k) :
    (s.corrBoth.chan k).rstat = rstatWord .invalidParameter := by
  rw [chan_corrBoth, if_pos hk, chan_corrUnit_of_not_legal _ h]

/-- Settles O56: degree 0 fails the degree check of all five commands on all three channels, whose rejections the
statements O15, O23, O32 and O34 give. -/
theorem unconfiguredCommandsFailFast : Obligations.UnconfiguredCommandsFailFast := by
  intro s hdeg hglen
  have hlfsr (k : Channel) : ¬ LfsrLegal s k := not_lfsrLegal_of_deg_zero (hdeg k)
  have hcorr (k : Channel) : ¬ CorrelateLegal s k := fun h => hlfsr k h.1
  have hrecover (k : Channel) : ¬ RecoverLegal s k := fun h => hlfsr k (lfsrLegal_of_recoverLegal h)
  refine ⟨fun k => ?gen, fun k => ?corr, ?corr2, ?fsel, ?recover, exec_comb_of_glen_zero hglen⟩
  case gen =>
    obtain ⟨hreject, -⟩ := generateErrorsWriteOnlyCstat k s
    exact hreject fun h => hlfsr k h.1
  case corr =>
    obtain ⟨t, ht, hchan, -, hframe⟩ := correlateRejectsIllegalParameters k s (hcorr k)
    exact ⟨t, ht, congrArg State.cstat hframe, congrArg ChannelRegs.rstat hchan⟩
  case corr2 =>
    have h1 := rstat_corrBoth_of_not_legal (.inl rfl) (hcorr .c1)
    have h2 := rstat_corrBoth_of_not_legal (.inr rfl) (hcorr .c2)
    exact ⟨_, exec_corr2 s, cstat_concludeSearch_of_failed [.c2] h1 (by decide),
      (congrArg ChannelRegs.rstat (chan_concludeSearch _ _ .c1)).trans h1,
      (congrArg ChannelRegs.rstat (chan_concludeSearch _ _ .c2)).trans h2⟩
  case fsel => exact ⟨_, selectRejectsIllegalParameters s fun h => hlfsr .c3 h.1, rfl, rfl⟩
  case recover =>
    have hlowest (j : Channel) (hj : channelNumber j < channelNumber .c1) : RecoverLegal s j := by
      cases j <;> exact absurd hj (by decide)
    obtain ⟨t, ht, -, hstatus, hframe⟩ := recoverChecksAllChannelsFirst s .c1 (hrecover .c1) hlowest
    refine ⟨t, ht, congrArg State.cstat hframe, fun k => ?_⟩
    obtain ⟨-, hmarked⟩ := hstatus k
    exact hmarked (hrecover k)

end Sys2Proof.Machine
end

section
/-! SUPPORT. What the model adds where the specification is silent: the commands with CH = 0 (log 13) and the step of an
engine whose host asks for nothing (log 1). -/

namespace Sys2Proof.Machine

/-- The channels are numbered from 1, so CH = 0 names none (30_encoding.md R63). -/
theorem ofField_zero : Channel.ofField 0#2 = none := rfl

/-- IllegalCommand writes CSTAT, blaming no channel, and ends the command (R184). -/
theorem raiseIllegal_eq (s : State) : s.raiseIllegal = { s with cstat := statusWord 5 0, phase := .idle } :=
  raise_unblamed s .illegalCommand

/-- Settles O6: CH = 0 names no channel, so both commands end as IllegalCommand. -/
theorem channelZeroIsIllegal : Obligations.ChannelZeroIsIllegal := by
  intro s
  rw [exec_gen_of_no_channel ofField_zero, exec_corr_of_no_channel ofField_zero, raiseIllegal_eq]
  exact ⟨rfl, rfl⟩

/-- Settles O53: the empty queue is the branch of the step that serves no operation. -/
theorem emptyQueueIdles : Obligations.EmptyQueueIdles := by
  intro s h
  rw [step, State.serveNext, h]

end Sys2Proof.Machine
end
